-- ==== Sys2Proof/Word.lean ====
section
/-! DEFINITION. Word.lean: the byte of the field line and the plainest arithmetic of counts. -/

namespace Sys2Proof

/-- A byte of the field line (00_scope R1). -/
abbrev Byte := BitVec 8

/-- `a` plus `b`, staying at `top` once there: how every counter of the part rises (R28, R55, R132, R148). -/
def satAdd (top a b : Nat) : Nat := min top (a + b)

/-- The greatest value of an 8 x `k` bit field. -/
def maxOf (k : Nat) : Nat := 256 ^ k - 1

end Sys2Proof
end

