-- ==== Sys2Proof/Syntax.lean ====
section
/-! DEFINITION. Syntax.lean: the commands of the block, one constructor for each row of spec/opcode_table.json. -/

namespace Sys2Proof

/-- The two line ports: U toward the district office, D toward the turnout stations and the reaches below. -/
inductive Port where
  | u
  | d
  deriving DecidableEq, Repr

/-- A line address, reach and station (01_the_field_line section 1.3). -/
structure Addr where
  reach : Nat
  station : Nat
  deriving DecidableEq, Repr

/-- Turnouts 1..16, held as 0..15. -/
abbrev Turnout := Fin 16

/-- Flume stations 1..18, held as 0..17: the turnouts' flumes, the inflow flume (17) and the outflow flume (18). -/
abbrev Station := Fin 18

/-- The commands. A frame command carries what its rule leaves to the sender: the station or the source and
destination, the priority mark and the body. -/
inductive Instr where
  /-- END_GAP (R4): the quiet time of an inactive interval reaches the end gap. -/
  | endGap (p : Port)
  /-- CAPTURE_SATURATION (R2): the capture counter saturates during an active pulse. -/
  | captureSaturation (p : Port)
  /-- ROUTE_FRAME (R14): the free router takes the next held frame. -/
  | routeFrame
  /-- TRANSMIT_START (R24): the port finds the quiet time at `quiet` units and begins when R24 allows. -/
  | transmitStart (p : Port) (quiet : Nat)
  /-- TRANSMIT_END (R25): the inactive interval after the last bit has passed. -/
  | transmitEnd (p : Port)
  /-- TALKER_CLASH (R26): the line goes active during one of the port's own inactive intervals. -/
  | talkerClash (p : Port)
  /-- TABLE_WRITE_REACH (R35): request number, entry number and the bytes after them. -/
  | tableWriteReach (request entry : Byte) (fields : List Byte)
  /-- TABLE_WRITE_TURNOUTS (R37). -/
  | tableWriteTurnouts (request entry : Byte) (fields : List Byte)
  /-- TABLE_WRITE_RATING (R38). -/
  | tableWriteRating (request entry : Byte) (fields : List Byte)
  /-- TABLE_WRITE_ACCOUNTS (R39). -/
  | tableWriteAccounts (request entry : Byte) (fields : List Byte)
  /-- TABLE_WRITE_TARIFF (R41). -/
  | tableWriteTariff (request entry : Byte) (fields : List Byte)
  /-- TABLE_WRITE_LINE_TIMING (R42). -/
  | tableWriteLineTiming (request entry : Byte) (fields : List Byte)
  /-- TABLE_WRITE_SCAN (R43). -/
  | tableWriteScan (request entry : Byte) (fields : List Byte)
  /-- TABLE_WRITE_ALERT_ENABLES (R43). -/
  | tableWriteAlertEnables (request entry : Byte) (fields : List Byte)
  /-- TABLE_READ (R44), with its whole body. -/
  | tableRead (body : List Byte)
  /-- STATUS_READ (R45), with its whole body. -/
  | statusRead (body : List Byte)
  /-- EVENT_CLEAR (R49), with its whole body. -/
  | eventClear (body : List Byte)
  /-- ORDER_READ (R46), with its whole body. -/
  | orderRead (body : List Byte)
  /-- COMMAND_RESTART (R50). -/
  | commandRestart (request : Byte)
  /-- COMMAND_LOCK_TARIFF (R51). -/
  | commandLockTariff (request : Byte)
  /-- COMMAND_WIPE (R52). -/
  | commandWipe (request : Byte)
  /-- STORE_COMMIT (R181), with its whole body. -/
  | storeCommit (body : List Byte)
  /-- BILL_READ_PEEK (R175). -/
  | billReadPeek (request index part : Byte)
  /-- BILL_READ_COLLECT (R176). -/
  | billReadCollect (request index part : Byte)
  /-- TICK (R55). -/
  | tick
  /-- TIME (R58), addressed to n.0 or broadcast. -/
  | time (broadcast marked : Bool) (body : List Byte)
  /-- FROST_CALL (R65), addressed to n.0 or broadcast. -/
  | frostCall (broadcast marked : Bool) (body : List Byte)
  /-- FROST_WINDOW_END_REACHED (R66). -/
  | frostWindowEndReached
  /-- CURTAIL (R67), addressed to n.0 or broadcast. -/
  | curtail (broadcast marked : Bool) (body : List Byte)
  /-- PERIOD_CLOSE (R170): the billing unit takes the oldest period close event raised. -/
  | periodClose
  /-- ORDER (R74) from a turnout station. -/
  | order (t : Turnout) (marked : Bool) (body : List Byte)
  /-- ORDER_CANCEL (R93) from a turnout station. -/
  | orderCancel (t : Turnout) (marked : Bool) (body : List Byte)
  /-- CONFIRM_AT_ORIGIN (R81): a CONFIRM addressed to this reach. -/
  | confirmAtOrigin (src : Addr) (marked : Bool) (body : List Byte)
  /-- REFUSE_AT_ORIGIN (R83): a REFUSE addressed to this reach. -/
  | refuseAtOrigin (src : Addr) (marked : Bool) (body : List Byte)
  /-- HOLD_DEADLINE_REACHED (R85). -/
  | holdDeadlineReached
  /-- START_REACHED (R86). -/
  | startReached
  /-- END_REACHED (R90). -/
  | endReached
  /-- DEMAND (R103) arriving on the D port. -/
  | demand (src dst : Addr) (marked : Bool) (body : List Byte)
  /-- CONFIRM_PASSING (R107) arriving on the U port. -/
  | confirmPassing (src dst : Addr) (marked : Bool) (body : List Byte)
  /-- REFUSE_PASSING (R108) arriving on the U port. -/
  | refusePassing (src dst : Addr) (marked : Bool) (body : List Byte)
  /-- RELEASE (R110) arriving on the D port. -/
  | release (src dst : Addr) (marked : Bool) (body : List Byte)
  /-- CARRIAGE_HOLD_DEADLINE_REACHED (R112). -/
  | carriageHoldDeadlineReached
  /-- WINDOW_END_REACHED (R113). -/
  | windowEndReached
  /-- GATE_REPORT (R121) from a turnout station. -/
  | gateReport (t : Turnout) (marked : Bool) (body : List Byte)
  /-- GATE_REPLY_TIMEOUT (R120). -/
  | gateReplyTimeout (t : Turnout)
  /-- GATE_TRAVEL_TIMEOUT (R120). -/
  | gateTravelTimeout (t : Turnout)
  /-- SCAN_INTERVAL_EXPIRY (R134). -/
  | scanIntervalExpiry
  /-- POLL_REPLY_TIMEOUT (R139). -/
  | pollReplyTimeout
  /-- HEAD_READING (R137) from a flume station. -/
  | headReading (x : Station) (marked : Bool) (body : List Byte)
  /-- STORE_OPERATION_END (R179): the stages all passed, or a verify failure stopped the operation. -/
  | storeOperationEnd (passed : Bool)
  /-- SUPPLY_LOW (R183): the supply has fallen to `level` mV. -/
  | supplyLow (level : Nat)
  /-- SUPPLY_NORMAL (R182): the supply has risen to `level` mV. -/
  | supplyNormal (level : Nat)
  /-- SUPPLY_BACKUP (R184): the supply has fallen to `level` mV. -/
  | supplyBackup (level : Nat)
  /-- SUPPLY_RESTART (R185): the supply has risen to `level` mV. -/
  | supplyRestart (level : Nat)
  /-- INACTIVE_EDGE (R2): the inactive edge that ends an active pulse of `width` units. -/
  | inactiveEdge (p : Port) (width : Nat)
  /-- ACTIVE_EDGE (R2): an active edge from another talker. -/
  | activeEdge (p : Port)
  /-- LOADING_COMPLETE (R188). -/
  | loadingComplete
  /-- WORKING_MEMORY_LOSS (R185): the supply has fallen to `level` mV. -/
  | workingMemoryLoss (level : Nat)
  deriving DecidableEq, Repr

end Sys2Proof
end

