-- ==== Sys2Proof/Decode.lean ====
section
/-! DEFINITION. Decode.lean: the commands that a word of the table's bits spells. -/

namespace Sys2Proof

/-- No row of spec/opcode_table.json gives bits ("fields": [] in every row), so no word spells a command. -/
def decodeTableWord (_nbits _w : Nat) : Option Instr := none

end Sys2Proof
end

