-- ==== Sys2Proof/Config.lean ====
section
/-! DEFINITION. Config.lean: the values that the spec leaves open, as constants without a body. -/

namespace Sys2Proof.Config

/-- A byte the spec does not state: the region byte of a BUSY reply to a STORE COMMIT body that names no region
(log 15), and a byte of a value too large for its field (log 22). The argument is the state's count of free
values drawn. -/
opaque freeByte : Nat → Byte

/-- The next write sequence after 4294967295, which R178 does not state (log 12). -/
opaque freeSequence : Nat → BitVec 32

/-- How many order ends of an allotment event the order unit carries out before the gate unit takes the trim
hand-over of the same reading: R143 leaves the order open (log 18). -/
opaque freeOrder : Nat → Nat

/-- VOID of a slot whose account is renumbered while VOID is set, which R39 does not state (log 21). -/
opaque freeVoid : Nat → Bool

end Sys2Proof.Config
end

