-- ==== Sys2Proof/Machine/Bytes.lean ====
section
/-! DEFINITION. Machine/Bytes.lean: fields and bytes, the check of R12, frames as bytes, and fixed tables. -/

namespace Sys2Proof.Machine

/-- `n` in `k` bytes, high-order byte first (R1). -/
def be : Nat → Nat → List Byte
  | 0, _ => []
  | k + 1, n => BitVec.ofNat 8 (n / 256 ^ k) :: be k n

/-- The number that bytes spell, high-order byte first (R1). -/
def beVal (bs : List Byte) : Nat := bs.foldl (fun n b => n * 256 + b.toNat) 0

/-- The number in the `len` bytes of a body from byte `off` on. -/
def field (b : List Byte) (off len : Nat) : Nat := beVal ((b.drop off).take len)

/-- A yes or no field as its byte, 1 or 0. -/
def flagByte (b : Bool) : List Byte := be 1 (if b then 1 else 0)

/-- The bits of a byte, most significant first. -/
def byteBits (b : Byte) : List Bool :=
  [b.getLsbD 7, b.getLsbD 6, b.getLsbD 5, b.getLsbD 4, b.getLsbD 3, b.getLsbD 2, b.getLsbD 1, b.getLsbD 0]

/-- The byte whose bits are given, most significant first. -/
def byteOfBits (bits : List Bool) : Byte :=
  BitVec.ofNat 8 (bits.foldl (fun n b => n * 2 + (if b then 1 else 0)) 0)

/-- One bit entering the check register: generator x^16 + x^12 + x^5 + 1 (R12). -/
def checkBit (r : BitVec 16) (b : Bool) : BitVec 16 :=
  if r.msb == b then r <<< 1 else (r <<< 1) ^^^ 0x1021#16

/-- One byte entering the check register, most significant bit first (R12). -/
def checkByte (r : BitVec 16) (b : Byte) : BitVec 16 := (byteBits b).foldl checkBit r

/-- The check computed from a register value on. -/
def checkFrom (r : BitVec 16) (bs : List Byte) : BitVec 16 := bs.foldl checkByte r

/-- The check of R12: the register starts at all ones; the result is neither reflected nor inverted. -/
def crc16 (bs : List Byte) : BitVec 16 := checkFrom 0xFFFF#16 bs

/-- A frame held in the part: the layout of section 1.3, and the priority mark, which is no byte of it. -/
structure Frame where
  dst : Addr
  src : Addr
  kind : Nat
  body : List Byte
  check : BitVec 16
  marked : Bool
  deriving DecidableEq, Repr

/-- The header bytes 0..5 of a frame (section 1.3). -/
def headerBytes (dst src : Addr) (kind len : Nat) : List Byte :=
  be 1 dst.reach ++ be 1 dst.station ++ be 1 src.reach ++ be 1 src.station ++ be 1 kind ++ be 1 len

/-- A frame with its check computed afresh (R12, R20). -/
def mkFrame (dst src : Addr) (kind : Nat) (body : List Byte) (marked : Bool) : Frame where
  dst := dst
  src := src
  kind := kind
  body := body
  check := crc16 (headerBytes dst src kind body.length ++ body)
  marked := marked

/-- The bytes of a frame in line order (section 1.3). -/
def frameBytes (f : Frame) : List Byte :=
  headerBytes f.dst f.src f.kind f.body.length ++ f.body ++ be 2 f.check.toNat

/-- Acceptance (R11): size, then length byte, then check. -/
def acceptFrame (bytes : List Byte) (marked : Bool) : Option Frame :=
  let size := bytes.length
  let len := field bytes 5 1
  let body := (bytes.drop 6).take len
  let check := crc16 (bytes.take (size - 2))
  if size < 8 ∨ 44 < size then none
  else if 36 < len ∨ size ≠ len + 8 then none
  else if check.toNat ≠ field bytes (size - 2) 2 then none
  else some {
    dst := ⟨field bytes 0 1, field bytes 1 1⟩
    src := ⟨field bytes 2 1, field bytes 3 1⟩
    kind := field bytes 4 1
    body := body
    check := check
    marked := marked }

/-- Entry `i` of a table of fixed size. -/
def getAt {α : Type} {n : Nat} (v : Vector α n) (i : Fin n) : α := v[i.val]

/-- A table with entry `i` replaced. -/
def putAt {α : Type} {n : Nat} (v : Vector α n) (i : Fin n) (x : α) : Vector α n := v.set i.val x

/-- A table with every entry changed by `f`. -/
def mapTable {α β : Type} {n : Nat} (f : α → β) (v : Vector α n) : Vector β n :=
  ⟨⟨v.toList.map f⟩, by simp⟩

/-- The table whose entry `i` is `f i`. -/
def tableOf {α : Type} {n : Nat} (f : Fin n → α) : Vector α n := ⟨⟨List.ofFn f⟩, by simp⟩

/-- A list put into ascending order of a key; equal keys keep their order. -/
def insertBy {α : Type} (key : α → Nat) (x : α) : List α → List α
  | [] => [x]
  | y :: ys => if key x < key y then x :: y :: ys else y :: insertBy key x ys

/-- Insertion sort by a key; equal keys keep their order. -/
def sortBy {α : Type} (key : α → Nat) (l : List α) : List α :=
  l.foldl (fun acc x => insertBy key x acc) []

end Sys2Proof.Machine
end

