-- ==== Sys2Proof/Machine/State.lean ====
section
/-! DEFINITION. Machine/State.lean: the state of the block as plain data, its faults and refusals, and its reset. -/

namespace Sys2Proof.Machine

/-! ## Line ports -/

/-- The symbols the classifier names (R3). -/
inductive Symbol where
  | lead
  | mark
  | one
  | zero
  | unclassified
  deriving DecidableEq, Repr

/-- The receiver of a port (R5..R9). In FRAME: the completed bytes in order, the bits of the byte in progress in
order, and the frame's priority mark. -/
inductive Receiver where
  | idle
  | frame (bytes : List Byte) (bits : List Bool) (mark : Bool)
  | discard
  deriving DecidableEq, Repr

/-- A frame in flight with the symbol widths fixed when its transmission began (R24, R25). -/
structure Transmission where
  frame : Frame
  leadWidth : Nat
  markWidth : Nat
  oneWidth : Nat
  zeroWidth : Nat
  deriving DecidableEq, Repr

/-- The eight counters of a port, 16 bits each (R28). -/
structure LineCounts where
  symbolErrors : Nat := 0
  framing : Nat := 0
  checkErrors : Nat := 0
  overruns : Nat := 0
  clashes : Nat := 0
  misrouted : Nat := 0
  refusedSource : Nat := 0
  queueDrops : Nat := 0
  deriving DecidableEq, Repr

/-- A port unit. The default values are those of R30. -/
structure PortUnit where
  /-- Capture counter (R2): the width of the active pulse, or the quiet time. -/
  counter : Nat := 0
  /-- The counter measures an active pulse. -/
  active : Bool := false
  /-- The end-gap event of this inactive interval has been raised (R4). -/
  gapRaised : Bool := false
  receiver : Receiver := .discard
  holding : List Frame := []
  queue : List Frame := []
  inFlight : Option Transmission := none
  clashWait : Bool := false
  counts : LineCounts := {}
  deriving DecidableEq, Repr

/-- What the part says to the line and to the office unasked: the two ports, the unmatched-carriage counter (R28)
and the event flags (R47). They stand together because a queue drop raises a flag and a raised flag places a
frame (R22, R29, R48). -/
structure Comms where
  u : PortUnit := {}
  d : PortUnit := {}
  unmatched : Nat := 0
  flags : BitVec 16 := 0
  deriving DecidableEq, Repr

/-! ## Tables (02_management_frames_tables_and_alerts section 2.2); default values are the factory values -/

structure ReachTable where
  number : Nat := 0
  capacity : Nat := 0
  localDraw : Nat := 0
  tailMin : Nat := 0
  travelLag : Nat := 0
  orderLead : Nat := 3600
  confirmHold : Nat := 600
  leak : Nat := 5
  trimInterval : Nat := 300
  trimTolerance : Nat := 5
  periodLength : Nat := 2592000
  warnChoice : Nat := 1
  deriving DecidableEq, Repr

structure TurnoutEntry where
  enabled : Bool := false
  maxRate : Nat := 100
  curve : Nat := 0
  travelLimit : Nat := 120
  deriving DecidableEq, Repr

structure RatingPoint where
  head : Nat
  flow : Nat := 0
  deriving DecidableEq, Repr

/-- Half a rating curve: one RATING entry. -/
structure HalfCurve where
  p1 : RatingPoint
  p2 : RatingPoint
  p3 : RatingPoint
  p4 : RatingPoint
  p5 : RatingPoint
  p6 : RatingPoint
  deriving DecidableEq, Repr

structure AccountEntry where
  /-- 0 is an empty slot. -/
  number : Nat := 0
  /-- Turnout k is bit k - 1. -/
  permitted : BitVec 16 := 0
  allotment : Nat := 0
  active : Bool := false
  tariffClass : Fin 4 := 0
  frostEligible : Bool := false
  overdraft : Nat := 0
  deriving DecidableEq, Repr

structure TariffEntry where
  threshold2 : Nat := 0
  threshold3 : Nat := 0
  threshold4 : Nat := 0
  rate1 : Nat := 0
  rate2 : Nat := 0
  rate3 : Nat := 0
  rate4 : Nat := 0
  overdraftRate : Nat := 0
  surcharge : Nat := 0
  fixedCharge : Nat := 0
  deriving DecidableEq, Repr

/-- A symbol window, bounds included, in units of 4 µs. -/
structure Window where
  lo : Nat
  hi : Nat
  deriving DecidableEq, Repr

structure LineTiming where
  lead : Window := ⟨500, 650⟩
  mark : Window := ⟨350, 450⟩
  one : Window := ⟨200, 275⟩
  zero : Window := ⟨75, 150⟩
  endGap : Nat := 1000
  /-- Seconds. -/
  gateReply : Nat := 10
  /-- Milliseconds. -/
  pollReply : Nat := 800
  deriving DecidableEq, Repr

structure ScanTable where
  interval : Nat := 60
  resolution : Nat := 12
  settle : Nat := 1
  inflow : Bool := false
  outflow : Bool := false
  deriving DecidableEq, Repr

/-- The factory half curve of RATING entry `e`: point k of every curve has head 5957 × (k − 1) and flow 0. -/
def factoryHalf (e : Fin 8) : HalfCurve :=
  let k := if e.val % 2 = 0 then 0 else 6
  ⟨⟨5957 * k, 0⟩, ⟨5957 * (k + 1), 0⟩, ⟨5957 * (k + 2), 0⟩, ⟨5957 * (k + 3), 0⟩, ⟨5957 * (k + 4), 0⟩,
    ⟨5957 * (k + 5), 0⟩⟩

/-- The working copies of seven tables; the TARIFF table is the billing unit's (R163). -/
structure Tables where
  reach : ReachTable := {}
  turnouts : Vector TurnoutEntry 16 := .replicate 16 {}
  rating : Vector HalfCurve 8 := tableOf factoryHalf
  accounts : Vector AccountEntry 64 := .replicate 64 {}
  timing : LineTiming := {}
  scan : ScanTable := {}
  enables : BitVec 16 := 0xFFFF
  deriving DecidableEq, Repr

/-! ## District clock (R54) -/

inductive ClockStatus where
  | unset
  | set
  deriving DecidableEq, Repr

structure FrostWindow where
  start : Nat
  stop : Nat
  deriving DecidableEq, Repr

structure Clock where
  status : ClockStatus := .unset
  period : Nat := 0
  seconds : Nat := 0
  run : Nat := 0
  frost : Option FrostWindow := none
  /-- The frost window end has been raised by R57 and is not yet taken. -/
  frostEndRaised : Bool := false
  curtail : Option Nat := none
  drawLimit : Nat := 0
  deriving DecidableEq, Repr

/-! ## Order unit (R70..R72) -/

inductive OrderClass where
  | normal
  | frost
  deriving DecidableEq, Repr

/-- The state of an order record with the fields present in it alone (R70). -/
inductive OrderState where
  | provisional (holdDeadline : Nat)
  | confirmed (sequence : Nat)
  | running (sequence delivered charge : Nat)
  deriving DecidableEq, Repr

structure OrderRec where
  tag : Nat
  terminal : Nat
  account : Nat
  turnout : Turnout
  cls : OrderClass
  start : Nat
  stop : Nat
  rate : Nat
  state : OrderState
  deriving DecidableEq, Repr

/-- The end causes, in the order of their codes (R84). -/
inductive EndCause where
  | completed
  | cancelled
  | bumped
  | curtailed
  | allotment
  | gateFault
  | lockedOut
  | disabled
  deriving DecidableEq, Repr

/-- The kinds of time event of the order unit, in the order in which it takes those of one second (R72). -/
inductive OrderEventKind where
  | endReached
  | holdDeadline
  | startReached
  deriving DecidableEq, Repr

structure OrderEvent where
  kind : OrderEventKind
  tag : Nat
  deriving DecidableEq, Repr

structure OrderUnit where
  /-- In ascending order of tag. -/
  table : List OrderRec := []
  tagCounter : Nat := 0
  confCounter : Nat := 0
  /-- Time events raised by R57 and not yet taken, in the order raised. -/
  raised : List OrderEvent := []
  deriving DecidableEq, Repr

/-! ## Carriage unit (R97, R98) -/

inductive CarriageState where
  | tentative (holdDeadline : Nat)
  | firm
  deriving DecidableEq, Repr

structure CarriageRec where
  originReach : Nat
  originTag : Nat
  cls : OrderClass
  start : Nat
  stop : Nat
  rate : Nat
  state : CarriageState
  deriving DecidableEq, Repr

inductive CarriageEventKind where
  | holdDeadline
  | windowEnd
  deriving DecidableEq, Repr

structure CarriageEvent where
  kind : CarriageEventKind
  originReach : Nat
  originTag : Nat
  deriving DecidableEq, Repr

structure CarriageUnit where
  /-- In ascending order of origin reach, then of origin tag. -/
  list : List CarriageRec := []
  /-- Time events raised by R57 and not yet taken, in the order raised. -/
  raised : List CarriageEvent := []
  deriving DecidableEq, Repr

/-! ## Gate unit (R116) -/

inductive FaultCause where
  | silent
  | stuck
  | lockedOut
  deriving DecidableEq, Repr

/-- The state of a gate record; the fault cause is present in FAULT only. -/
inductive GateState where
  | closed
  | moving
  | opened
  | fault (cause : FaultCause)
  deriving DecidableEq, Repr

structure GateRec where
  state : GateState := .closed
  commanded : Nat := 0
  reported : Nat := 0
  ready : Bool := false
  lastCommand : Nat := 0
  runOut : Option Nat := none
  /-- Stopped, or running with the length in seconds it was started with. -/
  replyTimer : Option Nat := none
  /-- Stopped, or running with the length in seconds it was started with. -/
  travelTimer : Option Nat := none
  /-- Command stamp: the run seconds at which the last GATE SET was placed. -/
  stamp : Nat := 0
  deriving DecidableEq, Repr

/-! ## Scan unit (R132, R133) -/

inductive StationState where
  | new
  | live
  | lost
  deriving DecidableEq, Repr

structure StationRec where
  state : StationState := .new
  misses : Nat := 0
  rate : Nat := 0
  /-- Reference time, in run seconds. -/
  ref : Nat := 0
  unmetered : Nat := 0
  /-- Half-litre carry, 0 or 1. -/
  carry : Nat := 0
  deriving DecidableEq, Repr

/-- The phase, with the parameters, the position and the stations after it while SCANNING. -/
inductive ScanPhase where
  | idle
  | scanning (resolution settle : Nat) (position : Station) (rest : List Station)
  deriving DecidableEq, Repr

structure ScanUnit where
  stations : Vector StationRec 18 := .replicate 18 {}
  /-- The scan list of the last scan that began. -/
  list : List Station := []
  phase : ScanPhase := .idle
  outstanding : Bool := false
  /-- Stopped, or running with the length in milliseconds it was started with. -/
  pollTimer : Option Nat := none
  /-- Stopped, or running with the length in seconds of the present interval. -/
  interval : Option Nat := none
  pending : Bool := false
  deriving DecidableEq, Repr

/-! ## Metering unit (R148..R150, R174) -/

structure Counters where
  openVol : Nat := 0
  frostVol : Nat := 0
  overdraftVol : Nat := 0
  runOutVol : Nat := 0
  tier1 : Nat := 0
  tier2 : Nat := 0
  tier3 : Nat := 0
  tier4 : Nat := 0
  orderCount : Nat := 0
  fixedCharges : Nat := 0
  charge : Nat := 0
  void : Bool := false
  deriving DecidableEq, Repr

structure Meters where
  total : Nat := 0
  credited : Nat := 0
  runOut : Nat := 0
  unordered : Nat := 0
  deriving DecidableEq, Repr

structure Balance where
  inflow : Nat := 0
  outflow : Nat := 0
  turnouts : Nat := 0
  deriving DecidableEq, Repr

structure PeriodEntry where
  total : Nat
  unordered : Nat
  unmetered : Nat
  deriving DecidableEq, Repr

structure PeriodRecord where
  period : Nat
  entries : Vector (Option PeriodEntry) 16
  inflow : Nat
  outflow : Nat
  deriving DecidableEq, Repr

structure Metering where
  counters : Vector Counters 64 := .replicate 64 {}
  meters : Vector Meters 16 := .replicate 16 {}
  balance : Balance := {}
  record : Option PeriodRecord := none
  deriving DecidableEq, Repr

/-! ## Billing unit (R163, R172) -/

abbrev Tariff := Vector TariffEntry 4

/-- A staged tariff and the tariff edition at which it was formed (R169). -/
structure Staged where
  entries : Tariff
  edition : Nat
  deriving DecidableEq, Repr

/-- A bill. HELD is set exactly when held-until is present (R172). -/
structure Bill where
  account : Nat
  period : Nat
  tier1 : Nat
  tier2 : Nat
  tier3 : Nat
  tier4 : Nat
  overdraftVol : Nat
  frostVol : Nat
  runOutVol : Nat
  orderCount : Nat
  fixedCharges : Nat
  charge : Nat
  void : Bool
  /-- Period number and period seconds. -/
  heldUntil : Option (Nat × Nat)
  deriving DecidableEq, Repr

structure Billing where
  active : Tariff := .replicate 4 {}
  staged : Option Staged := none
  lock : Bool := false
  edition : Nat := 0
  /-- Close list, oldest first. -/
  closes : List Nat := []
  /-- Bill list, oldest first. -/
  bills : List Bill := []
  /-- Period close events raised by the clock (R56, R60) and not yet taken, oldest first. -/
  raised : List Nat := []
  deriving DecidableEq, Repr

/-! ## Management unit (R32, R53) -/

inductive MgmtState where
  | ready
  | restartPending
  | wipePending
  deriving DecidableEq, Repr

inductive RestartKind where
  | powerOn
  | supplyRecovery
  | commanded
  | wipe
  deriving DecidableEq, Repr

inductive RestoreResult where
  | restored
  | void
  | factory
  deriving DecidableEq, Repr

/-- The restart record; table code k is bit k − 1 of the set (R53). -/
structure RestartRecord where
  kind : RestartKind
  result : RestoreResult
  factoryTables : BitVec 8
  deriving DecidableEq, Repr

structure LastReply where
  request : Byte
  kind : Nat
  frame : Frame
  deriving DecidableEq, Repr

structure Mgmt where
  state : MgmtState := .ready
  lastReply : Option LastReply := none
  restart : RestartRecord
  deriving DecidableEq, Repr

/-! ## Store controller (R178..R180, R189) -/

/-- The regions by code, 1..9 in this order. -/
inductive RegionId where
  | reach
  | turnouts
  | rating
  | accounts
  | tariff
  | lineTiming
  | scan
  | alertEnables
  | accountState
  deriving DecidableEq, Repr

structure Header where
  sequence : Nat
  period : Nat
  deriving DecidableEq, Repr

/-- The TARIFF region: the active tariff, and the staged tariff when present (R169). -/
structure TariffImage where
  active : Tariff
  staged : Option Staged
  deriving DecidableEq, Repr

/-- The content of ACCOUNT STATE (section 10.1). -/
structure AccountImage where
  period : Nat
  counters : Vector Counters 64
  meters : Vector Meters 16
  balance : Balance
  unmetered : Vector Nat 18
  bills : List Bill
  closes : List Nat
  lock : Bool
  edition : Nat
  /-- Present while the lock is set. -/
  active : Option Tariff
  deriving DecidableEq, Repr

/-- The copy of one region. -/
inductive Image where
  | reach (t : ReachTable)
  | turnouts (t : Vector TurnoutEntry 16)
  | rating (t : Vector HalfCurve 8)
  | accounts (t : Vector AccountEntry 64)
  | tariff (t : TariffImage)
  | lineTiming (t : LineTiming)
  | scan (t : ScanTable)
  | alertEnables (t : BitVec 16)
  | accountState (t : AccountImage)
  deriving DecidableEq, Repr

/-- What a region holds once an operation has programmed it (R178). -/
structure Region (α : Type) where
  header : Header
  content : α
  /-- The check over header and content, as programmed. -/
  check : BitVec 16
  /-- The complete mark reads exactly. -/
  mark : Bool
  deriving DecidableEq, Repr

/-- A region: erased, or programmed (R178, R179). -/
abbrev Stored (α : Type) := Option (Region α)

structure Regions where
  reach : Stored ReachTable := none
  turnouts : Stored (Vector TurnoutEntry 16) := none
  rating : Stored (Vector HalfCurve 8) := none
  accounts : Stored (Vector AccountEntry 64) := none
  tariff : Stored TariffImage := none
  lineTiming : Stored LineTiming := none
  scan : Stored ScanTable := none
  alertEnables : Stored (BitVec 16) := none
  accountState : Stored AccountImage := none
  deriving DecidableEq, Repr

/-- The operation in flight: its copy, the request number of the STORE COMMIT it answers, and whether its end is
the end that a COMMAND RESTART waits for (R180). -/
structure StoreOp where
  header : Header
  image : Image
  commit : Option Byte
  servesRestart : Bool
  deriving DecidableEq, Repr

/-- The wipe (R189): waiting for the operation in flight, erasing a region, or writing a region. -/
inductive WipeStep where
  | waiting
  | erasing (r : RegionId)
  | writing (r : RegionId)
  deriving DecidableEq, Repr

structure Store where
  regions : Regions := {}
  nextSeq : Nat := 1
  op : Option StoreOp := none
  waiting : Bool := false
  wipe : Option WipeStep := none
  wipeFault : Bool := false
  deriving DecidableEq, Repr

/-! ## Supply monitor (R182..R185) -/

inductive SupplyStatus where
  | normal
  | low
  | backup
  deriving DecidableEq, Repr

structure Supply where
  /-- The supply as the monitor measures it, in millivolts. -/
  level : Nat
  status : SupplyStatus
  retention : Bool
  relayClosed : Bool
  deriving DecidableEq, Repr

/-- What a loading in progress has found: the restart record it will write and the noted store fault (R186..R188). -/
structure Loading where
  record : RestartRecord
  storeFault : Bool
  deriving DecidableEq, Repr

/-! ## The state, its faults and its refusals -/

/-- The faults. There is none: the spec gives every command an effect in every state (INVENTORY.md, Faults). -/
inductive Fault where
  deriving DecidableEq, Repr

/-- The refusals. -/
inductive Refusal where
  /-- Raised by nothing: every command has its meaning. It would be safe. -/
  | notModelled (mnemonic : String)
  deriving DecidableEq, Repr

/-- The state of the block. -/
structure State where
  /-- The commands that wait, first in, first out. -/
  pending : List Instr
  comms : Comms
  /-- The port the router took from last (R14). -/
  lastTaken : Option Port
  clock : Clock
  tables : Tables
  orders : OrderUnit
  carriage : CarriageUnit
  gates : Vector GateRec 16
  /-- Turnouts whose GATE SET 0 of the end of loading waits for room in the D queue (R131), ascending. -/
  gateWaiting : List Turnout
  scan : ScanUnit
  metering : Metering
  billing : Billing
  mgmt : Mgmt
  store : Store
  supply : Supply
  /-- Loading in progress (R185..R188). -/
  loading : Option Loading
  /-- How many free values have been drawn (the model's own field, log 3). -/
  free : Nat
  deriving DecidableEq, Repr

/-- The ALERT body of R48. -/
def alertBody (flags : BitVec 16) (k : Nat) (c : Clock) : List Byte :=
  be 2 flags.toNat ++ be 1 k ++ be 1 (match c.status with | .unset => 0 | .set => 1) ++ be 2 c.period
    ++ be 3 c.seconds

/-- The machine right after reset: the end of the first power-on restart of a part whose store was never written
(section 11.1, R30, R53, R54, R96, R114, R131, R146, R161, R177, R187, R188), with a supply of 12 V (log 5). -/
def State.reset : State where
  pending := []
  comms := {
    u := { queue := [mkFrame ⟨0, 0⟩ ⟨250, 0⟩ 0x7E (alertBody 0x2000 13 {}) false,
                     mkFrame ⟨0, 0⟩ ⟨250, 0⟩ 0x7E (alertBody 0xA000 15 {}) false] }
    flags := 0xA000 }
  lastTaken := none
  clock := {}
  tables := {}
  orders := {}
  carriage := {}
  gates := .replicate 16 {}
  gateWaiting := []
  scan := { interval := some 60 }
  metering := {}
  billing := {}
  mgmt := { restart := ⟨.powerOn, .void, 0xFF⟩ }
  store := {}
  supply := { level := 12000, status := .normal, retention := true, relayClosed := false }
  loading := none
  free := 0

end Sys2Proof.Machine
end

