-- ==== Sys2Proof/Machine/Flags.lean ====
section
/-! DEFINITION. Machine/Flags.lean: line counters, transmit queues, event flags and ALERTs (R21, R22, R28, R29, R47, R48). -/

namespace Sys2Proof.Machine

/-- The sixteen event flags by number (section 2.4). -/
inductive Flag where
  | lineFault
  | queueDrop
  | orderLapsed
  | carriageRefused
  | ordersShed
  | gateFault
  | stationLost
  | scanOverrun
  | offRating
  | unorderedFlow
  | allotmentReached
  | closeHeld
  | supplyLow
  | storeFault
  | timeRejected
  | restarted
  deriving DecidableEq, Repr

/-- The number of a flag (section 2.4). -/
def flagIndex : Flag → Nat
  | .lineFault => 0
  | .queueDrop => 1
  | .orderLapsed => 2
  | .carriageRefused => 3
  | .ordersShed => 4
  | .gateFault => 5
  | .stationLost => 6
  | .scanOverrun => 7
  | .offRating => 8
  | .unorderedFlow => 9
  | .allotmentReached => 10
  | .closeHeld => 11
  | .supplyLow => 12
  | .storeFault => 13
  | .timeRejected => 14
  | .restarted => 15

/-- One more on a 16-bit line counter, which stays at 65535 (R28). -/
def bump (n : Nat) : Nat := satAdd 65535 n 1

/-- The port unit of a port. -/
def portOf (p : Port) (c : Comms) : PortUnit :=
  match p with
  | .u => c.u
  | .d => c.d

/-- The ports with one port unit replaced. -/
def setPort (p : Port) (x : PortUnit) (c : Comms) : Comms :=
  match p with
  | .u => { c with u := x }
  | .d => { c with d := x }

/-- The other port. -/
def otherPort : Port → Port
  | .u => .d
  | .d => .u

/-- A port unit with its counters changed. -/
def withCounts (f : LineCounts → LineCounts) (x : PortUnit) : PortUnit := { x with counts := f x.counts }

/-- The ports with the counters of one of them changed. -/
def countAt (p : Port) (f : LineCounts → LineCounts) (c : Comms) : Comms := setPort p (withCounts f (portOf p c)) c

/-- The transmit queue of a port holds eight frames (section 1.5). -/
def queuePlaces : Nat := 8

/-- A frame takes its place behind the last frame of its class: marked frames stand ahead of unmarked (R21). -/
def joinQueue (f : Frame) (q : List Frame) : List Frame :=
  if f.marked then q.takeWhile (·.marked) ++ f :: q.dropWhile (·.marked) else q ++ [f]

/-- The queue without its newest unmarked frame (R22). -/
def dropNewestUnmarked (q : List Frame) : List Frame := (q.reverse.eraseP fun g => !g.marked).reverse

/-- A frame arrives at a transmit queue (R21, R22): the queue after it, and whether a frame was dropped. -/
def enqueue (f : Frame) (q : List Frame) : List Frame × Bool :=
  if q.length < queuePlaces then (joinQueue f q, false)
  else if f.marked && q.any (fun g => !g.marked) then (joinQueue f (dropNewestUnmarked q), true)
  else (q, true)

/-- A port unit after a frame arrived at its queue; a drop is counted (R22, R28). -/
def portEnqueue (f : Frame) (x : PortUnit) : PortUnit :=
  let r := enqueue f x.queue
  { x with
    queue := r.1
    counts := if r.2 then { x.counts with queueDrops := bump x.counts.queueDrops } else x.counts }

/-- A frame arriving at this port's queue now would cost a frame (R22). -/
def wouldDrop (f : Frame) (x : PortUnit) : Bool := (enqueue f x.queue).2

/-- What an ALERT is made from besides the flags: its source (R20), the enables and the clock (R48). -/
structure AlertContext where
  src : Addr
  enables : BitVec 16
  clock : Clock

/-- The ALERT that flag `k` causes, with the flags as they stand after it is set (R48). -/
def alertFrame (x : AlertContext) (flags : BitVec 16) (k : Flag) : Frame :=
  mkFrame ⟨0, 0⟩ x.src 0x7E (alertBody flags (flagIndex k) x.clock) false

/-- A flag is set. -/
def flagSet (flags : BitVec 16) (k : Flag) : Bool := flags.getLsbD (flagIndex k)

/-- The flags with flag `k` set. -/
def addFlag (flags : BitVec 16) (k : Flag) : BitVec 16 := flags ||| (1#16 <<< flagIndex k)

/-- The ports after a frame arrived at a queue, without the flag a drop raises. -/
def enqueueAt (p : Port) (f : Frame) (c : Comms) : Comms := setPort p (portEnqueue f (portOf p c)) c

/-- The ALERT of a flag that has just been set is placed in the U queue, when the flag is enabled (R48). -/
def sendAlert (x : AlertContext) (k : Flag) (c : Comms) : Comms :=
  if flagSet x.enables k then enqueueAt .u (alertFrame x c.flags k) c else c

/-- QUEUE DROP is raised (R22, R29): when it was clear and is enabled a further ALERT is sent; a drop of that
ALERT is counted and finds the flag set (R48). -/
def raiseDrop (x : AlertContext) (c : Comms) : Comms :=
  if flagSet c.flags .queueDrop then c
  else sendAlert x .queueDrop { c with flags := addFlag c.flags .queueDrop }

/-- A frame is placed in a queue; a drop raises QUEUE DROP (R22, R29). -/
def placeIn (x : AlertContext) (p : Port) (f : Frame) (c : Comms) : Comms :=
  if wouldDrop f (portOf p c) then raiseDrop x (enqueueAt p f c) else enqueueAt p f c

/-- A unit raises a flag (R47, R48): a set flag stays set and nothing more is done; a flag that passes from clear
to set sends one ALERT when it is enabled, and a drop of it raises QUEUE DROP. -/
def raiseIn (x : AlertContext) (k : Flag) (c : Comms) : Comms :=
  if flagSet c.flags k then c
  else
    let c' := { c with flags := addFlag c.flags k }
    if flagSet x.enables k then placeIn x .u (alertFrame x c'.flags k) c' else c'

/-- The own reach number, 0 while the part is unassigned. -/
def ownReach (s : State) : Nat := s.tables.reach.number

/-- The source address of a frame the part originates (R20). -/
def ownAddr (s : State) : Addr := if ownReach s = 0 then ⟨250, 0⟩ else ⟨ownReach s, 0⟩

/-- What an ALERT placed now is made from. -/
def alertContext (s : State) : AlertContext := ⟨ownAddr s, s.tables.enables, s.clock⟩

/-- A frame is placed in the transmit queue of a port. -/
def place (p : Port) (f : Frame) (s : State) : State := { s with comms := placeIn (alertContext s) p f s.comms }

/-- A unit raises an event flag. -/
def raise (k : Flag) (s : State) : State := { s with comms := raiseIn (alertContext s) k s.comms }

/-- A line counter of a port rises. -/
def count (p : Port) (f : LineCounts → LineCounts) (s : State) : State := { s with comms := countAt p f s.comms }

/-- One misrouted count (R15, R16). -/
def countMisrouted (p : Port) (s : State) : State := count p (fun c => { c with misrouted := bump c.misrouted }) s

/-- One refused-source count (R18). -/
def countRefusedSource (p : Port) (s : State) : State :=
  count p (fun c => { c with refusedSource := bump c.refusedSource }) s

/-- One count of the unmatched-carriage counter (R28). -/
def countUnmatched (s : State) : State :=
  { s with comms := { s.comms with unmatched := bump s.comms.unmatched } }

/-- The event flags with those of a set cleared (R49). -/
def clearFlags (set : BitVec 16) (s : State) : State :=
  { s with comms := { s.comms with flags := s.comms.flags &&& ~~~set } }

/-- All seventeen line counters at 0 (R28, R49). -/
def zeroCounts (s : State) : State :=
  { s with comms := { s.comms with
      u := { s.comms.u with counts := {} }
      d := { s.comms.d with counts := {} }
      unmatched := 0 } }

end Sys2Proof.Machine
end

