-- ==== Sys2Proof/Machine/Operands.lean ====
section
/-! DEFINITION. Machine/Operands.lean: the operand forms, that is, table entries, requests and records as bytes. -/

namespace Sys2Proof.Machine

/-! ## Ranges and flag fields -/

/-- `lo..hi`, both ends included (00_scope, Ranges). -/
def within (lo hi n : Nat) : Bool := decide (lo ≤ n) && decide (n ≤ hi)

/-- A yes or no byte in its range. -/
def isFlag (n : Nat) : Bool := within 0 1 n

/-- The number 0 or 1 of a yes or no field. -/
def flagNat (b : Bool) : Nat := if b then 1 else 0

/-- A class of order as its code (R70). -/
def classCode : OrderClass → Nat
  | .normal => 0
  | .frost => 1

/-- A class code as the class (R70). -/
def classOf (n : Nat) : OrderClass := if n = 1 then .frost else .normal

/-- The turnout of a station number 1..16. -/
def turnoutOf (station : Nat) : Option Turnout :=
  if h : station - 1 < 16 then (if 1 ≤ station then some ⟨station - 1, h⟩ else none) else none

/-- The flume station of a station number 1..18. -/
def stationOf (station : Nat) : Option Station :=
  if h : station - 1 < 18 then (if 1 ≤ station then some ⟨station - 1, h⟩ else none) else none

/-- The station number of a turnout. -/
def stationNumber (t : Turnout) : Nat := t.val + 1

/-- Turnout `t` is in a set of turnouts (section 2.1). -/
def permits (set : BitVec 16) (t : Turnout) : Bool := set.getLsbD t.val

/-! ## REACH -/

/-- The REACH fields as an entry's bytes give them. -/
def readReach (b : List Byte) : ReachTable where
  number := field b 0 1
  capacity := field b 1 2
  localDraw := field b 3 2
  tailMin := field b 5 2
  travelLag := field b 7 2
  orderLead := field b 9 3
  confirmHold := field b 12 2
  leak := field b 14 1
  trimInterval := field b 15 2
  trimTolerance := field b 17 1
  periodLength := field b 18 3
  warnChoice := field b 21 1

/-- Every REACH field lies within its range. -/
def reachInRange (r : ReachTable) : Bool :=
  within 0 249 r.number && within 0 30000 r.capacity && within 0 6000 r.localDraw && within 0 30000 r.tailMin
    && within 0 7200 r.travelLag && within 0 86400 r.orderLead && within 60 1800 r.confirmHold
    && within 0 50 r.leak && within 60 1800 r.trimInterval && within 1 20 r.trimTolerance
    && within 604800 15552000 r.periodLength && within 0 3 r.warnChoice

/-- A REACH entry as bytes. -/
def reachBytes (r : ReachTable) : List Byte :=
  be 1 r.number ++ be 2 r.capacity ++ be 2 r.localDraw ++ be 2 r.tailMin ++ be 2 r.travelLag ++ be 3 r.orderLead
    ++ be 2 r.confirmHold ++ be 1 r.leak ++ be 2 r.trimInterval ++ be 1 r.trimTolerance ++ be 3 r.periodLength
    ++ be 1 r.warnChoice

/-- A REACH entry read from its bytes, when every field lies within its range. -/
def parseReach (b : List Byte) : Option ReachTable :=
  if reachInRange (readReach b) then some (readReach b) else none

/-! ## TURNOUTS -/

/-- A TURNOUTS entry lies within its ranges, but for the enable field, which is a Bool here. -/
def turnoutInRange (t : TurnoutEntry) : Bool :=
  within 10 1000 t.maxRate && within 0 3 t.curve && within 10 600 t.travelLimit

/-- The TURNOUTS fields as an entry's bytes give them. -/
def readTurnout (b : List Byte) : TurnoutEntry where
  enabled := field b 0 1 == 1
  maxRate := field b 1 2
  curve := field b 3 1
  travelLimit := field b 4 2

/-- A TURNOUTS entry read from its bytes, when every field lies within its range. -/
def parseTurnout (b : List Byte) : Option TurnoutEntry :=
  if isFlag (field b 0 1) && turnoutInRange (readTurnout b) then some (readTurnout b) else none

/-- A TURNOUTS entry as bytes. -/
def turnoutBytes (t : TurnoutEntry) : List Byte :=
  flagByte t.enabled ++ be 2 t.maxRate ++ be 1 t.curve ++ be 2 t.travelLimit

/-! ## RATING -/

/-- The point whose four bytes start at `off`. -/
def readPoint (b : List Byte) (off : Nat) : RatingPoint := ⟨field b off 2, field b (off + 2) 2⟩

/-- The half curve of 24 bytes. -/
def readHalf (b : List Byte) : HalfCurve :=
  ⟨readPoint b 0, readPoint b 4, readPoint b 8, readPoint b 12, readPoint b 16, readPoint b 20⟩

/-- The points of a half curve in order. -/
def halfPoints (h : HalfCurve) : List RatingPoint := [h.p1, h.p2, h.p3, h.p4, h.p5, h.p6]

/-- Heads 0..65535, flows 0..6000. -/
def halfInRange (h : HalfCurve) : Bool :=
  (halfPoints h).all fun p => within 0 65535 p.head && within 0 6000 p.flow

/-- A RATING entry read from its bytes, when every field lies within its range. -/
def parseHalf (b : List Byte) : Option HalfCurve := if halfInRange (readHalf b) then some (readHalf b) else none

/-- A rating point as bytes. -/
def pointBytes (p : RatingPoint) : List Byte := be 2 p.head ++ be 2 p.flow

/-- A RATING entry as bytes. -/
def halfBytes (h : HalfCurve) : List Byte :=
  pointBytes h.p1 ++ pointBytes h.p2 ++ pointBytes h.p3 ++ pointBytes h.p4 ++ pointBytes h.p5 ++ pointBytes h.p6

/-- The twelve points of curve `c`: entries 2c and 2c + 1. -/
def curvePoints (r : Vector HalfCurve 8) (c : Fin 4) : List RatingPoint :=
  halfPoints (getAt r ⟨2 * c.val, by omega⟩) ++ halfPoints (getAt r ⟨2 * c.val + 1, by omega⟩)

/-- Heads strictly ascending and no flow below the one before it (R38). -/
def curveOrdered : List RatingPoint → Bool
  | p :: q :: rest => decide (p.head < q.head) && decide (p.flow ≤ q.flow) && curveOrdered (q :: rest)
  | _ => true

/-! ## ACCOUNTS -/

/-- The ACCOUNTS fields as an entry's bytes give them. -/
def readAccount (b : List Byte) : AccountEntry where
  number := field b 0 2
  permitted := BitVec.ofNat 16 (field b 2 2)
  allotment := field b 4 3
  active := field b 7 1 == 1
  tariffClass := Fin.ofNat 4 (field b 8 1)
  frostEligible := field b 9 1 == 1
  overdraft := field b 10 3

/-- An ACCOUNTS entry read from its bytes, when every field lies within its range. -/
def parseAccount (b : List Byte) : Option AccountEntry :=
  if within 0 4000000 (field b 4 3) && isFlag (field b 7 1) && within 0 3 (field b 8 1) && isFlag (field b 9 1)
      && within 0 100000 (field b 10 3) then some (readAccount b) else none

/-- An ACCOUNTS entry as bytes. -/
def accountBytes (a : AccountEntry) : List Byte :=
  be 2 a.number ++ be 2 a.permitted.toNat ++ be 3 a.allotment ++ flagByte a.active ++ be 1 a.tariffClass.val
    ++ flagByte a.frostEligible ++ be 3 a.overdraft

/-! ## TARIFF -/

/-- The TARIFF fields as an entry's bytes give them. -/
def readTariff (b : List Byte) : TariffEntry where
  threshold2 := field b 0 3
  threshold3 := field b 3 3
  threshold4 := field b 6 3
  rate1 := field b 9 3
  rate2 := field b 12 3
  rate3 := field b 15 3
  rate4 := field b 18 3
  overdraftRate := field b 21 3
  surcharge := field b 24 3
  fixedCharge := field b 27 3

/-- Every TARIFF field lies within its range. -/
def tariffInRange (t : TariffEntry) : Bool :=
  within 0 4000000 t.threshold2 && within 0 4000000 t.threshold3 && within 0 4000000 t.threshold4
    && within 0 10000000 t.rate1 && within 0 10000000 t.rate2 && within 0 10000000 t.rate3
    && within 0 10000000 t.rate4 && within 0 10000000 t.overdraftRate && within 0 10000000 t.surcharge
    && within 0 10000000 t.fixedCharge

/-- A TARIFF entry read from its bytes, when every field lies within its range. -/
def parseTariff (b : List Byte) : Option TariffEntry :=
  if tariffInRange (readTariff b) then some (readTariff b) else none

/-- A TARIFF entry as bytes. -/
def tariffBytes (t : TariffEntry) : List Byte :=
  be 3 t.threshold2 ++ be 3 t.threshold3 ++ be 3 t.threshold4 ++ be 3 t.rate1 ++ be 3 t.rate2 ++ be 3 t.rate3
    ++ be 3 t.rate4 ++ be 3 t.overdraftRate ++ be 3 t.surcharge ++ be 3 t.fixedCharge

/-! ## LINE TIMING -/

/-- The window whose four bytes start at `off`. -/
def readWindow (b : List Byte) (off : Nat) : Window := ⟨field b off 2, field b (off + 2) 2⟩

/-- The LINE TIMING fields as an entry's bytes give them. -/
def readTiming (b : List Byte) : LineTiming where
  lead := readWindow b 0
  mark := readWindow b 4
  one := readWindow b 8
  zero := readWindow b 12
  endGap := field b 16 2
  gateReply := field b 18 1
  pollReply := field b 19 2

/-- Both bounds in 1..4095, the lower not above the upper. -/
def windowInRange (w : Window) : Bool := within 1 4095 w.lo && within 1 4095 w.hi && decide (w.lo ≤ w.hi)

/-- Every LINE TIMING field lies within its range (R42). -/
def timingInRange (t : LineTiming) : Bool :=
  windowInRange t.lead && windowInRange t.mark && windowInRange t.one && windowInRange t.zero
    && within 250 4095 t.endGap && within 1 30 t.gateReply && within 100 5000 t.pollReply

/-- A LINE TIMING entry read from its bytes, when every field lies within its range. -/
def parseTiming (b : List Byte) : Option LineTiming :=
  if timingInRange (readTiming b) then some (readTiming b) else none

/-- No unit value lies within both windows. -/
def windowsApart (v w : Window) : Bool := decide (v.hi < w.lo) || decide (w.hi < v.lo)

/-- No unit value lies within two of the four windows (R42). -/
def timingApart (t : LineTiming) : Bool :=
  windowsApart t.lead t.mark && windowsApart t.lead t.one && windowsApart t.lead t.zero
    && windowsApart t.mark t.one && windowsApart t.mark t.zero && windowsApart t.one t.zero

/-- A window as bytes. -/
def windowBytes (w : Window) : List Byte := be 2 w.lo ++ be 2 w.hi

/-- A LINE TIMING entry as bytes. -/
def timingBytes (t : LineTiming) : List Byte :=
  windowBytes t.lead ++ windowBytes t.mark ++ windowBytes t.one ++ windowBytes t.zero ++ be 2 t.endGap
    ++ be 1 t.gateReply ++ be 2 t.pollReply

/-! ## SCAN and ALERT ENABLES -/

/-- The SCAN fields as an entry's bytes give them. -/
def readScan (b : List Byte) : ScanTable where
  interval := field b 0 2
  resolution := field b 2 1
  settle := field b 3 1
  inflow := field b 4 1 == 1
  outflow := field b 5 1 == 1

/-- A SCAN entry lies within its ranges, but for the presence fields, which are Bools here. -/
def scanInRange (t : ScanTable) : Bool :=
  within 10 600 t.interval && within 9 16 t.resolution && within 0 3 t.settle

/-- A SCAN entry read from its bytes, when every field lies within its range. -/
def parseScan (b : List Byte) : Option ScanTable :=
  if scanInRange (readScan b) && isFlag (field b 4 1) && isFlag (field b 5 1) then some (readScan b) else none

/-- A SCAN entry as bytes. -/
def scanBytes (t : ScanTable) : List Byte :=
  be 2 t.interval ++ be 1 t.resolution ++ be 1 t.settle ++ flagByte t.inflow ++ flagByte t.outflow

/-- The ALERT ENABLES entry as its two bytes give it. -/
def readEnables (b : List Byte) : BitVec 16 := BitVec.ofNat 16 (field b 0 2)

/-- The ALERT ENABLES entry as bytes. -/
def enablesBytes (e : BitVec 16) : List Byte := be 2 e.toNat

/-! ## Records as read frames send them -/

/-- A reach number field of a record that may exceed its field: the value when it fits, free bytes where it does
not (log 22). -/
def wideBytes (k n draw : Nat) : List Byte :=
  if n < 256 ^ k then be k n else (List.range k).map fun i => Config.freeByte (draw + i)

/-- The state code of an order record (R70). -/
def orderStateCode : OrderState → Nat
  | .provisional _ => 0
  | .confirmed _ => 1
  | .running _ _ _ => 2

/-- An order record as ORDER DATA sends it (R46). -/
def orderBytes (draw : Nat) (o : OrderRec) : List Byte :=
  be 1 o.tag ++ be 1 o.terminal ++ be 1 (stationNumber o.turnout) ++ be 1 (classCode o.cls)
    ++ be 1 (orderStateCode o.state) ++ be 2 o.account ++ be 2 o.rate ++ be 3 o.start ++ be 3 o.stop
    ++ (match o.state with
      | .provisional d => be 3 d
      | .confirmed q => be 2 q
      | .running q v c => be 2 q ++ wideBytes 4 v draw ++ wideBytes 6 c (draw + 4))

/-- A carriage record as ORDER DATA sends it (R46). -/
def carriageBytes (r : CarriageRec) : List Byte :=
  be 1 r.originReach ++ be 1 r.originTag ++ be 1 (classCode r.cls)
    ++ be 1 (match r.state with | .tentative _ => 0 | .firm => 1)
    ++ be 3 r.start ++ be 3 r.stop ++ be 2 r.rate
    ++ (match r.state with | .tentative d => be 3 d | .firm => [])

/-- A gate state as its code (R116). -/
def gateStateCode : GateState → Nat
  | .closed => 0
  | .moving => 1
  | .opened => 2
  | .fault _ => 3

/-- The fault cause of a gate state as its code, 0 when absent (R116). -/
def faultCode : GateState → Nat
  | .fault .silent => 1
  | .fault .stuck => 2
  | .fault .lockedOut => 3
  | _ => 0

/-- A gate record in the field order of R116, 12 bytes. -/
def gateBytes (g : GateRec) : List Byte :=
  be 1 (gateStateCode g.state) ++ be 2 g.commanded ++ be 2 g.reported ++ flagByte g.ready ++ be 3 g.lastCommand
    ++ be 1 (faultCode g.state) ++ be 2 (g.runOut.getD 0)

/-- A station state as its code (R132). -/
def stationStateCode : StationState → Nat
  | .new => 0
  | .live => 1
  | .lost => 2

/-- A station record in the field order of R132, 12 bytes. -/
def stationBytes (r : StationRec) : List Byte :=
  be 1 (stationStateCode r.state) ++ be 1 r.misses ++ be 2 r.rate ++ be 4 r.ref ++ be 3 r.unmetered ++ be 1 r.carry

/-- The four meters of a turnout (R44, R149). -/
def meterBytes (m : Meters) : List Byte := be 4 m.total ++ be 4 m.credited ++ be 4 m.runOut ++ be 4 m.unordered

/-- The reach balance (R44, R150). -/
def balanceBytes (b : Balance) : List Byte := be 4 b.inflow ++ be 4 b.outflow ++ be 4 b.turnouts

/-- ACCOUNTS selector 1 (R44). -/
def volumeBytes (c : Counters) : List Byte :=
  be 4 c.openVol ++ be 4 c.frostVol ++ be 4 c.overdraftVol ++ be 4 c.runOutVol ++ be 2 c.orderCount

/-- ACCOUNTS selector 2 (R44). VOID is sent as 1 when set and 0 when clear (the model's reading, log 42). -/
def chargeBytes (c : Counters) : List Byte :=
  be 4 c.tier1 ++ be 4 c.tier2 ++ be 4 c.tier3 ++ be 4 c.tier4 ++ be 6 c.fixedCharges ++ be 6 c.charge
    ++ flagByte c.void

/-- Part 0 of a bill (section 9.5). -/
def billPart0 (b : Bill) : List Byte :=
  be 2 b.account ++ be 2 b.period ++ be 4 b.tier1 ++ be 4 b.tier2 ++ be 4 b.tier3 ++ be 4 b.tier4
    ++ be 4 b.overdraftVol ++ be 4 b.frostVol

/-- The flags of a bill: HELD 1, VOID 2, both 3 (section 9.5). -/
def billFlags (b : Bill) : Nat := flagNat b.heldUntil.isSome + 2 * flagNat b.void

/-- Part 1 of a bill (section 9.5). -/
def billPart1 (b : Bill) : List Byte :=
  be 2 b.account ++ be 2 b.period ++ be 4 b.runOutVol ++ be 2 b.orderCount ++ be 6 b.fixedCharges ++ be 6 b.charge
    ++ be 1 (billFlags b) ++ (match b.heldUntil with | some (p, t) => be 2 p ++ be 3 t | none => [])

/-- Part 0 or 1 of a bill. -/
def billPart (part : Nat) (b : Bill) : List Byte := if part = 0 then billPart0 b else billPart1 b

/-! ## Regions of the store as bytes: what their check is computed over (R178, log 10) -/

/-- The header of a region. -/
def regionHeaderBytes (h : Header) : List Byte := be 4 h.sequence ++ be 2 h.period

/-- The entries of a table in ascending order. -/
def entryBytes {α : Type} {n : Nat} (f : α → List Byte) (v : Vector α n) : List Byte := v.toList.flatMap f

/-- The four TARIFF entries. -/
def tariffEntries (t : Tariff) : List Byte := entryBytes tariffBytes t

/-- The content of the TARIFF region: the active tariff, and the staged one with its edition when present. -/
def tariffImageBytes (t : TariffImage) : List Byte :=
  tariffEntries t.active
    ++ (match t.staged with | none => [0] | some x => [1] ++ tariffEntries x.entries ++ be 2 x.edition)

/-- A bill: its two parts. -/
def billBytes (b : Bill) : List Byte := billPart0 b ++ billPart1 b

/-- The content of ACCOUNT STATE, in the order of section 10.1. -/
def accountImageBytes (a : AccountImage) : List Byte :=
  be 2 a.period ++ entryBytes (fun c => volumeBytes c ++ chargeBytes c) a.counters ++ entryBytes meterBytes a.meters
    ++ balanceBytes a.balance ++ entryBytes (be 3) a.unmetered
    ++ be 1 a.bills.length ++ a.bills.flatMap billBytes ++ be 1 a.closes.length ++ a.closes.flatMap (be 2)
    ++ flagByte a.lock ++ be 2 a.edition
    ++ (match a.active with | none => [0] | some t => [1] ++ tariffEntries t)

/-- The check of a region over its header and its content, by R12 (R178). -/
def regionCheck (h : Header) (content : List Byte) : BitVec 16 := crc16 (regionHeaderBytes h ++ content)

/-- The end cause as its code (R84). -/
def causeCode : EndCause → Nat
  | .completed => 0
  | .cancelled => 1
  | .bumped => 2
  | .curtailed => 3
  | .allotment => 4
  | .gateFault => 5
  | .lockedOut => 6
  | .disabled => 7

/-- The restart kind as its code (R53, R185). -/
def kindCode : RestartKind → Nat
  | .powerOn => 0
  | .supplyRecovery => 1
  | .commanded => 2
  | .wipe => 3

/-- The restore result as its code (R53). -/
def resultCode : RestoreResult → Nat
  | .restored => 0
  | .void => 1
  | .factory => 2

/-- The region of a code 1..9 (section 10.1). -/
def regionOf (n : Nat) : Option RegionId :=
  match n with
  | 1 => some .reach
  | 2 => some .turnouts
  | 3 => some .rating
  | 4 => some .accounts
  | 5 => some .tariff
  | 6 => some .lineTiming
  | 7 => some .scan
  | 8 => some .alertEnables
  | 9 => some .accountState
  | _ => none

/-- The code of a region (section 10.1). -/
def regionCode : RegionId → Nat
  | .reach => 1
  | .turnouts => 2
  | .rating => 3
  | .accounts => 4
  | .tariff => 5
  | .lineTiming => 6
  | .scan => 7
  | .alertEnables => 8
  | .accountState => 9

/-- The body of an ORDER (section 4.2). -/
structure OrderRequest where
  terminal : Nat
  account : Nat
  cls : OrderClass
  start : Nat
  duration : Nat
  rate : Nat
  deriving DecidableEq, Repr

/-- An ORDER body, when it is not malformed (R74). -/
def parseOrder (b : List Byte) : Option OrderRequest :=
  if b.length = 12 ∧ field b 0 1 ≠ 0 ∧ field b 3 1 ≤ 1 ∧ 900 ≤ field b 7 3 ∧ field b 7 3 ≤ 259200 then
    some ⟨field b 0 1, field b 1 2, classOf (field b 3 1), field b 4 3, field b 7 3, field b 10 2⟩
  else none

/-- The first body byte, or 0 (R31, R74, R93). -/
def firstByte (b : List Byte) : Nat := (b.headD 0).toNat

/-- The body of a DEMAND (R80). -/
structure DemandBody where
  originReach : Nat
  tag : Nat
  cls : OrderClass
  start : Nat
  stop : Nat
  rate : Nat
  holdDeadline : Nat
  deriving DecidableEq, Repr

/-- A DEMAND body at reach `n`, when it is well formed (R101). The origin tag is not tested: a DEMAND with origin tag 0 is
well formed and books a record with tag 0 (the model's reading, log 40). -/
def parseDemand (n : Nat) (b : List Byte) : Option DemandBody :=
  if b.length = 14 ∧ n < field b 0 1 ∧ field b 0 1 ≤ 249 ∧ field b 2 1 ≤ 1
      ∧ 1 ≤ field b 9 2 ∧ field b 9 2 ≤ 1000 ∧ field b 3 3 ≤ field b 6 3 then
    some ⟨field b 0 1, field b 1 1, classOf (field b 2 1), field b 3 3, field b 6 3, field b 9 2, field b 11 3⟩
  else none

/-- A DEMAND body as bytes (R80). -/
def demandBytes (d : DemandBody) : List Byte :=
  be 1 d.originReach ++ be 1 d.tag ++ be 1 (classCode d.cls) ++ be 3 d.start ++ be 3 d.stop ++ be 2 d.rate
    ++ be 3 d.holdDeadline

/-- The key of a CONFIRM, REFUSE or RELEASE body of `len` bytes at reach `n`: origin reach and tag, when it is well
formed (R101). -/
def parseKey (n len : Nat) (b : List Byte) : Option (Nat × Nat) :=
  if b.length = len ∧ n < field b 0 1 ∧ field b 0 1 ≤ 249 then some (field b 0 1, field b 1 1) else none

/-- The body of a GATE REPORT (section 6.2). -/
structure GateReport where
  opening : Nat
  moving : Bool
  ready : Bool
  deriving DecidableEq, Repr

/-- A GATE REPORT body, when it is not malformed (R121). -/
def parseReport (b : List Byte) : Option GateReport :=
  if b.length = 4 ∧ field b 0 2 ≤ 1000 ∧ field b 2 1 ≤ 1 ∧ field b 3 1 ≤ 1 then
    some ⟨field b 0 2, field b 2 1 == 1, field b 3 1 == 1⟩
  else none

end Sys2Proof.Machine
end

