-- ==== Sys2Proof/Machine/Ops.lean ====
section
/-! DEFINITION. Machine/Ops.lean: the operations that several units share: originated frames, booked times, gate
commands, order ends. -/

namespace Sys2Proof.Machine

/-! ## Frame kinds (R18) -/

abbrev Kind.order : Nat := 0x21
abbrev Kind.orderCancel : Nat := 0x22
abbrev Kind.orderReply : Nat := 0x23
abbrev Kind.gateSet : Nat := 0x31
abbrev Kind.gateReport : Nat := 0x32
abbrev Kind.headPoll : Nat := 0x41
abbrev Kind.headReading : Nat := 0x42
abbrev Kind.demand : Nat := 0x51
abbrev Kind.confirm : Nat := 0x52
abbrev Kind.refuse : Nat := 0x53
abbrev Kind.release : Nat := 0x54
abbrev Kind.time : Nat := 0x61
abbrev Kind.frostCall : Nat := 0x62
abbrev Kind.curtail : Nat := 0x63
abbrev Kind.tableWrite : Nat := 0x71
abbrev Kind.tableRead : Nat := 0x72
abbrev Kind.tableData : Nat := 0x73
abbrev Kind.storeCommit : Nat := 0x74
abbrev Kind.statusRead : Nat := 0x75
abbrev Kind.statusData : Nat := 0x76
abbrev Kind.eventClear : Nat := 0x77
abbrev Kind.billRead : Nat := 0x78
abbrev Kind.billData : Nat := 0x79
abbrev Kind.orderRead : Nat := 0x7A
abbrev Kind.orderData : Nat := 0x7B
abbrev Kind.command : Nat := 0x7C
abbrev Kind.mgmtReply : Nat := 0x7D

/-! ## The part as a whole -/

/-- The part takes events: it is neither stopped in BACKUP nor loading (R184, R188). -/
def isRunning (s : State) : Bool := (s.supply.status != .backup) && s.loading.isNone

/-- An event reaches the part: while it is stopped or loading it takes none (R184, R188). -/
def whileRunning (f : State → State) (s : State) : State := if isRunning s then f s else s

/-- The office's address. -/
def office : Addr := ⟨0, 0⟩

/-- The address of station `k` of the own reach. -/
def stationAddr (s : State) (k : Nat) : Addr := ⟨ownReach s, k⟩

/-- A frame the part originates (R20). -/
def originate (dst : Addr) (kind : Nat) (body : List Byte) (marked : Bool) (s : State) : Frame :=
  mkFrame dst (ownAddr s) kind body marked

/-- The transmit queue that a frame the part originates joins, by its destination: reach 0 and the reaches above the
part go up; the part's own stations and the reaches below it go down (R20). -/
def queueFor (dst : Addr) (s : State) : Port := if dst.reach = 0 ∨ dst.reach < ownReach s then .u else .d

/-- A frame the part originates is placed in the queue that its destination names (R20). -/
def send (dst : Addr) (kind : Nat) (body : List Byte) (marked : Bool) (s : State) : State :=
  place (queueFor dst s) (originate dst kind body marked s) s

/-- A frame of the part for the office (R20, R31). -/
def sendOffice (kind : Nat) (body : List Byte) (marked : Bool) (s : State) : State := send office kind body marked s

/-- A frame of the part for a station of the reach (R20). -/
def sendStation (station kind : Nat) (body : List Byte) (marked : Bool) (s : State) : State :=
  send (stationAddr s station) kind body marked s

/-- The present period seconds, which stand at 0 while the clock is UNSET (R54). -/
def now (s : State) : Nat := s.clock.seconds

/-- A time moved to inflow time by the travel lag, 0 where the lag exceeds it (R80, R102). -/
def shifted (s : State) (t : Nat) : Nat := t - s.tables.reach.travelLag

/-- A free value of `k` bytes is drawn when `n` does not fit its field of `k` bytes (log 22). -/
def drawFor (k n : Nat) (s : State) : State := if n < 256 ^ k then s else { s with free := s.free + k }

/-! ## Accounts and turnouts -/

/-- The slot that holds an account number; an empty slot holds none (R75, R152). -/
def findSlot (accounts : Vector AccountEntry 64) (number : Nat) : Option (Fin 64) :=
  (List.finRange 64).find? fun i => number != 0 && (getAt accounts i).number == number

/-- The NORMAL limit of an account, in litres (section 8.4). -/
def normalLimit (a : AccountEntry) : Nat := a.allotment * 1000

/-- The limit of an account for a class of order, in litres (section 8.4). -/
def classLimit (a : AccountEntry) (c : OrderClass) : Nat :=
  match c with
  | .normal => normalLimit a
  | .frost => if a.frostEligible then (a.allotment + a.overdraft) * 1000 else normalLimit a

/-- The record RUNNING on a turnout, read from the order table as it stands. -/
def runningOn (t : Turnout) (table : List OrderRec) : Option OrderRec :=
  table.find? fun o => o.turnout == t && (match o.state with | .running _ _ _ => true | _ => false)

/-- A record is RUNNING. -/
def isRunningRec (o : OrderRec) : Bool := match o.state with | .running _ _ _ => true | _ => false

/-- A frost order is marked, a normal one is not (R23, R84). -/
def isFrost (c : OrderClass) : Bool := c == .frost

/-- The mark of a command that names the order RUNNING on a turnout (R118, R125). -/
def runningFrost (t : Turnout) (s : State) : Bool :=
  match runningOn t s.orders.table with
  | some o => isFrost o.cls
  | none => false

/-! ## Booked times (R57, R72, R98) -/

/-- The time an order record books, with its event. -/
def bookedOrder (o : OrderRec) : OrderEvent × Nat :=
  match o.state with
  | .provisional d => (⟨.holdDeadline, o.tag⟩, d)
  | .confirmed _ => (⟨.startReached, o.tag⟩, o.start)
  | .running _ _ _ => (⟨.endReached, o.tag⟩, o.stop)

/-- The place of an event kind among the events of one second (R72). -/
def eventRank : OrderEventKind → Nat
  | .endReached => 0
  | .holdDeadline => 1
  | .startReached => 2

/-- Ascending time; at one second ends, hold deadlines, starts; then ascending tag (R72). -/
def orderEventKey (x : OrderEvent × Nat) : Nat := (x.2 * 3 + eventRank x.1.kind) * 256 + x.1.tag

/-- The booked times of the order unit that stand reached and are not yet raised, in the order it takes them. -/
def dueOrders (seconds : Nat) (u : OrderUnit) : List OrderEvent :=
  (sortBy orderEventKey ((u.table.map bookedOrder).filter fun x => decide (x.2 ≤ seconds) && !u.raised.contains x.1)).map
    (·.1)

/-- The time a carriage record books, with its event (R98). -/
def bookedCarriage (r : CarriageRec) : CarriageEvent × Nat :=
  match r.state with
  | .tentative d => (⟨.holdDeadline, r.originReach, r.originTag⟩, d)
  | .firm => (⟨.windowEnd, r.originReach, r.originTag⟩, r.stop)

/-- Ascending time, equal times in list order (R98). -/
def carriageEventKey (x : CarriageEvent × Nat) : Nat := (x.2 * 256 + x.1.originReach) * 256 + x.1.originTag

/-- The booked times of the carriage unit that stand reached and are not yet raised, in the order it takes them. -/
def dueCarriage (seconds : Nat) (u : CarriageUnit) : List CarriageEvent :=
  (sortBy carriageEventKey
    ((u.list.map bookedCarriage).filter fun x => decide (x.2 ≤ seconds) && !u.raised.contains x.1)).map (·.1)

/-- The frost window end stands reached (R66). -/
def frostDue (c : Clock) : Bool := match c.frost with | some w => decide (w.stop ≤ c.seconds) | none => false

/-- The clock raises every booked time that the period seconds stand at or after, while it is SET (R57): after an
advance, and at the moment a time is booked. -/
def raiseDue (s : State) : State :=
  match s.clock.status with
  | .unset => s
  | .set => { s with
      clock := { s.clock with frostEndRaised := s.clock.frostEndRaised || frostDue s.clock }
      orders := { s.orders with raised := s.orders.raised ++ dueOrders s.clock.seconds s.orders }
      carriage := { s.carriage with raised := s.carriage.raised ++ dueCarriage s.clock.seconds s.carriage } }

/-! ## The order table -/

/-- The record of a tag. -/
def findTag (tag : Nat) (table : List OrderRec) : Option OrderRec := table.find? fun o => o.tag == tag

/-- The order unit with the times of a tag no longer booked (R57, R72). -/
def unbook (tag : Nat) (u : OrderUnit) : OrderUnit := { u with raised := u.raised.filter fun e => e.tag != tag }

/-- The order unit without the record of a tag and without its booked times. -/
def dropOrder (tag : Nat) (u : OrderUnit) : OrderUnit :=
  unbook tag { u with table := u.table.filter fun o => o.tag != tag }

/-- The order unit with the record of a tag in a new state, its earlier booked time no longer booked. -/
def setOrderState (tag : Nat) (st : OrderState) (u : OrderUnit) : OrderUnit :=
  unbook tag { u with table := u.table.map fun o => if o.tag == tag then { o with state := st } else o }

/-- The order table with a record put in ascending tag order. -/
def insertOrder (o : OrderRec) (table : List OrderRec) : List OrderRec := insertBy (·.tag) o table

/-! ## Gate commands (R118, R119) -/

/-- A gate record after a GATE SET is placed (R118). With `timed`, it passes to MOVING with both timers. -/
def commandedGate (opening : Nat) (timed : Bool) (t : Turnout) (s : State) : GateRec :=
  let g := getAt s.gates t
  let g := { g with commanded := opening, lastCommand := now s, stamp := s.clock.run }
  if timed then
    { g with
      state := .moving
      replyTimer := some s.tables.timing.gateReply
      travelTimer := some (getAt s.tables.turnouts t).travelLimit }
  else g

/-- A GATE SET (R118). While the own reach number is 0 it is passed over. It withdraws a GATE SET of the end of
loading that waits for the turnout (R131). -/
def gateSet (t : Turnout) (opening : Nat) (marked timed : Bool) (s : State) : State :=
  if ownReach s = 0 then s
  else
    { sendStation (stationNumber t) Kind.gateSet (be 2 opening) marked s with
      gates := putAt s.gates t (commandedGate opening timed t s)
      gateWaiting := s.gateWaiting.filter fun x => x != t }

/-- The gate records with one of them changed. -/
def mapGate (t : Turnout) (f : GateRec → GateRec) (s : State) : State :=
  { s with gates := putAt s.gates t (f (getAt s.gates t)) }

/-- The order unit's request for a nonzero opening (R119). -/
def requestOpening (t : Turnout) (opening : Nat) (c : OrderClass) (s : State) : State :=
  match (getAt s.gates t).state with
  | .fault _ => s
  | _ => gateSet t opening (isFrost c) true s

/-- The order unit's request for opening 0 with a run-out account (R119). -/
def requestClose (t : Turnout) (account : Nat) (c : OrderClass) (s : State) : State :=
  match (getAt s.gates t).state with
  | .fault _ => s
  | .closed => s
  | _ => mapGate t (fun g => { g with runOut := some account }) (gateSet t 0 (isFrost c) true s)

/-! ## Notices and RELEASE (R84, R88) -/

/-- An ORDER REPLY to the station of a turnout (R84). -/
def sendNotice (t : Turnout) (body : List Byte) (marked : Bool) (s : State) : State :=
  sendStation (stationNumber t) Kind.orderReply body marked s

/-- ORDER REPLY REFUSED (R74, R83, R84, R93). -/
def sendRefused (t : Turnout) (terminal tag refusing reason : Nat) (marked : Bool) (s : State) : State :=
  sendNotice t (be 1 terminal ++ be 1 tag ++ be 1 2 ++ be 1 refusing ++ be 1 reason) marked s

/-- The RELEASE of a record whose order ends at `t` (R88). -/
def sendRelease (o : OrderRec) (t : Nat) (s : State) : State :=
  sendOffice Kind.release (be 1 (ownReach s) ++ be 1 o.tag ++ be 3 (shifted s t)) (isFrost o.cls) s

/-- The delivered volume of a record, 0 when it never ran (R87). -/
def deliveredOf (o : OrderRec) : Nat := match o.state with | .running _ v _ => v | _ => 0

/-- ORDER REPLY ENDED (R84, R87). -/
def sendEnded (o : OrderRec) (cause : EndCause) (s : State) : State :=
  drawFor 4 (deliveredOf o)
    (sendNotice o.turnout
      (be 1 o.terminal ++ be 1 o.tag ++ be 1 5 ++ be 1 (causeCode cause) ++ be 3 (now s)
        ++ wideBytes 4 (deliveredOf o) s.free)
      (isFrost o.cls) s)

/-! ## Order ends (R87) -/

/-- Step 1 of R87: a RUNNING record asks for its gate to close with its account as run-out account. -/
def closeForEnd (o : OrderRec) (s : State) : State :=
  if isRunningRec o then requestClose o.turnout o.account o.cls s else s

/-- Every end of a record (R87): close request, removal, ENDED, and RELEASE unless the cause is COMPLETED. -/
def endOrder (cause : EndCause) (o : OrderRec) (s : State) : State :=
  let s1 := closeForEnd o s
  let s2 := sendEnded o cause { s1 with orders := dropOrder o.tag s1.orders }
  if cause = .completed then s2 else sendRelease o (now s) s2

/-- The record of a tag, if there is one, ends with a cause. -/
def endTag (cause : EndCause) (s : State) (tag : Nat) : State :=
  match findTag tag s.orders.table with
  | some o => endOrder cause o s
  | none => s

/-- The records of a list of tags end one after another. -/
def endTags (cause : EndCause) (tags : List Nat) (s : State) : State := tags.foldl (endTag cause) s

/-- The tags of the records that a test picks, ascending. -/
def tagsWhere (p : OrderRec → Bool) (s : State) : List Nat := (s.orders.table.filter p).map (·.tag)

/-- The RUNNING record of a turnout, if there is one, ends with a cause (R91). -/
def endRunning (cause : EndCause) (t : Turnout) (s : State) : State :=
  match runningOn t s.orders.table with
  | some o => endOrder cause o s
  | none => s

end Sys2Proof.Machine
end

