-- ==== Sys2Proof/Machine/Gates.lean ====
section
/-! DEFINITION. Machine/Gates.lean: the gate unit (06_turnout_gates): reports, timers, faults, trim, check commands. -/

namespace Sys2Proof.Machine

/-- The tolerance of the gate chapter, in per mille (R116). -/
def gateTolerance : Nat := 10

/-- A report is on target: its opening differs from the commanded opening by 10 or less (R116). -/
def onTarget (opening commanded : Nat) : Bool :=
  decide (opening ≤ commanded + gateTolerance) && decide (commanded ≤ opening + gateTolerance)

/-- A gate record on entry to FAULT (R125 steps 1 and 2). -/
def faultedGate (cause : FaultCause) (g : GateRec) : GateRec :=
  { g with state := .fault cause, replyTimer := none, travelTimer := none, runOut := none }

/-- Entry to FAULT up to the flag (R125 steps 1 to 4); the events for the order unit follow. -/
def enterFault (t : Turnout) (cause : FaultCause) (s : State) : State :=
  let s1 := mapGate t (faultedGate cause) s
  raise .gateFault (gateSet t 0 (runningFrost t s1) false s1)

/-- The gate fault event taken by the order unit (R91, R125 step 5). -/
def gateFaultEvent (t : Turnout) (s : State) : State := endRunning .gateFault t s

/-- The lockout event taken by the order unit (R91, R124). -/
def lockoutEvent (t : Turnout) (s : State) : State := endRunning .lockedOut t s

/-- What a report does to a record that is not in FAULT (R122). -/
inductive ReportOutcome where
  | faults (cause : FaultCause)
  | settles (state : GateState)
  | startsMoving
  | stays
  deriving DecidableEq, Repr

/-- The first case of R122 that applies. -/
def reportOutcome (g : GateRec) (r : GateReport) : ReportOutcome :=
  if !r.ready && g.commanded != 0 then .faults .lockedOut
  else if !r.moving then
    (if onTarget r.opening g.commanded then .settles (if g.commanded = 0 then .closed else .opened)
     else .faults .stuck)
  else if g.state = .moving then .stays
  else .startsMoving

/-- A record at rest on target: the travel timer is stopped, and entry to CLOSED clears the run-out account (R122,
R129). -/
def settledGate (st : GateState) (g : GateRec) : GateRec :=
  { g with state := st, travelTimer := none, runOut := if st = .closed then none else g.runOut }

/-- Every report updates the reported opening and the readiness and stops the reply timer (R121). -/
def reportedGate (r : GateReport) (g : GateRec) : GateRec :=
  { g with reported := r.opening, ready := r.ready, replyTimer := none }

/-- The lockout event of a report with ready = no (R124). -/
def lockoutOf (t : Turnout) (r : GateReport) (s : State) : State := if r.ready then s else lockoutEvent t s

/-- A report is stopped, closed and ready: it returns a record in FAULT to CLOSED (R123). -/
def clearsFault (r : GateReport) : Bool := !r.moving && decide (r.opening ≤ gateTolerance) && r.ready

/-- The record in FAULT back in CLOSED (R123, R129). -/
def recoveredGate (g : GateRec) : GateRec :=
  { g with state := .closed, replyTimer := none, travelTimer := none, runOut := none }

/-- A report taken in FAULT (R123), and its lockout event (R124). -/
def reportInFault (t : Turnout) (r : GateReport) (s : State) : State :=
  lockoutOf t r (if clearsFault r then mapGate t recoveredGate s else s)

/-- A report taken in CLOSED, MOVING or OPEN (R122). The lockout event comes after the GATE SET of a fault entry and
before its gate fault event (R121, R124). -/
def reportOutOfFault (t : Turnout) (r : GateReport) (s : State) : State :=
  match reportOutcome (getAt s.gates t) r with
  | .faults cause => gateFaultEvent t (lockoutOf t r (enterFault t cause s))
  | .settles st => lockoutOf t r (mapGate t (settledGate st) s)
  | .startsMoving =>
    lockoutOf t r
      (mapGate t (fun g => { g with
        state := .moving
        travelTimer := some (getAt s.tables.turnouts t).travelLimit }) s)
  | .stays => lockoutOf t r s

/-- A well-formed GATE REPORT (R121..R124). -/
def wellFormedReport (t : Turnout) (r : GateReport) (s : State) : State :=
  let s1 := mapGate t (reportedGate r) s
  match (getAt s.gates t).state with
  | .fault _ => reportInFault t r s1
  | _ => reportOutOfFault t r s1

/-- The gate unit takes a GATE REPORT (R121). -/
def takeReport (t : Turnout) (body : List Byte) (s : State) : State :=
  match parseReport body with
  | none => countRefusedSource .d s
  | some r => wellFormedReport t r s

/-- A record enters FAULT from a timer, and the order unit takes the gate fault event (R120, R125). -/
def timerFault (t : Turnout) (cause : FaultCause) (s : State) : State := gateFaultEvent t (enterFault t cause s)

/-- A reply timer expires (R120). A timer runs only in MOVING. -/
def replyTimeout (t : Turnout) (s : State) : State :=
  let g := getAt s.gates t
  if g.state = .moving ∧ g.replyTimer.isSome then timerFault t .silent s else s

/-- A travel timer expires (R120). -/
def travelTimeout (t : Turnout) (s : State) : State :=
  let g := getAt s.gates t
  if g.state = .moving ∧ g.travelTimer.isSome then timerFault t .stuck s else s

/-! ## Trim (R127, R128) -/

/-- The measured rate differs from the order's by more than the tolerance, in percent (R127). -/
def trimNeeded (measured rate tolerance : Nat) : Bool :=
  decide (tolerance * rate < (measured - rate + (rate - measured)) * 100)

/-- `n` clipped to 1..1000 (R86, R128). -/
def clipOpening (n : Nat) : Nat := max 1 (min 1000 n)

/-- The new opening of a trim (R128). -/
def trimOpening (commanded rate measured : Nat) : Nat :=
  clipOpening (if measured = 0 then 1000 else commanded * rate / measured)

/-- The trim that a reading calls for, if any: the order and the new opening (R127, R128). -/
def trimCall (t : Turnout) (measured : Nat) (s : State) : Option (OrderRec × Nat) :=
  let g := getAt s.gates t
  match runningOn t s.orders.table with
  | none => none
  | some o =>
    let opening := trimOpening g.commanded o.rate measured
    if g.state = .opened ∧ s.tables.reach.trimInterval ≤ s.clock.run - g.stamp
        ∧ trimNeeded measured o.rate s.tables.reach.trimTolerance = true ∧ opening ≠ g.commanded then
      some (o, opening)
    else none

/-- The gate unit takes an accepted reading of a turnout flume (R127, R128). -/
def takeReading (t : Turnout) (measured : Nat) (s : State) : State :=
  match trimCall t measured s with
  | some (o, opening) => gateSet t opening (isFrost o.cls) true s
  | none => s

/-! ## Table writes and the end of loading (R130, R131) -/

/-- The check command of an accepted TURNOUTS write (R130). -/
def checkCommand (t : Turnout) (s : State) : State :=
  if (getAt s.tables.turnouts t).enabled then
    match (getAt s.gates t).state with
    | .closed => gateSet t 0 false true s
    | .fault _ => gateSet t 0 false false s
    | _ => s
  else s

/-- The next waiting GATE SET 0 is placed (R131). While the own reach number is 0 its placing is passed over
(R118) and it no longer waits (log 25). -/
def placeWaiting (s : State) : State :=
  match s.gateWaiting with
  | [] => s
  | t :: rest => gateSet t 0 false true { s with gateWaiting := rest }

/-- Waiting GATE SETs are placed while the D queue has a free place (R131). -/
def placeWhileRoom : Nat → State → State
  | 0, s => s
  | k + 1, s => if s.comms.d.queue.length < queuePlaces then placeWhileRoom k (placeWaiting s) else s

/-- The gate unit at the end of loading (R131): a GATE SET 0 for each enabled turnout, ascending. -/
def startGates (s : State) : State :=
  if ownReach s = 0 then s
  else
    let enabled := (List.finRange 16).filter fun t => (getAt s.tables.turnouts t).enabled
    placeWhileRoom enabled.length { s with gateWaiting := enabled }

/-- GATE_REPLY_TIMEOUT (R120). -/
def execGateReplyTimeout (t : Turnout) (s : State) : Host.Outcome State Fault Refusal :=
  .next (whileRunning (replyTimeout t) s)

/-- GATE_TRAVEL_TIMEOUT (R120). -/
def execGateTravelTimeout (t : Turnout) (s : State) : Host.Outcome State Fault Refusal :=
  .next (whileRunning (travelTimeout t) s)

end Sys2Proof.Machine
end

