-- ==== Sys2Proof/Machine/Store.lean ====
section
/-! DEFINITION. Machine/Store.lean: the store regions, operations, snapshots, loading and the wipe (10 sections 10.1,
10.2, 10.4, 10.5). -/

namespace Sys2Proof.Machine

/-! ## Copies (R179) -/

/-- Unmetered seconds never exceed 16777215 (R132). -/
def unmeteredTop : Nat := 16777215

/-- The pending gap of a LOST record (R139, R145). -/
def pendingGap (run : Nat) (r : StationRec) : Nat := match r.state with | .lost => run - r.ref | _ => 0

/-- The unmetered seconds a snapshot copy is given: a LOST record's with its pending gap (R145). -/
def copiedUnmetered (run : Nat) (r : StationRec) : Nat := satAdd unmeteredTop r.unmetered (pendingGap run r)

/-- The copy of ACCOUNT STATE (section 10.1, R145, R160, R177). -/
def accountCopy (s : State) : AccountImage where
  period := s.clock.period
  counters := s.metering.counters
  meters := s.metering.meters
  balance := s.metering.balance
  unmetered := mapTable (copiedUnmetered s.clock.run) s.scan.stations
  bills := s.billing.bills
  closes := s.billing.closes
  lock := s.billing.lock
  edition := s.billing.edition
  active := if s.billing.lock then some s.billing.active else none

/-- The copy of a region as the owning units hand it over (R179). -/
def copyOf (r : RegionId) (s : State) : Image :=
  match r with
  | .reach => .reach s.tables.reach
  | .turnouts => .turnouts s.tables.turnouts
  | .rating => .rating s.tables.rating
  | .accounts => .accounts s.tables.accounts
  | .tariff => .tariff ⟨s.billing.active, s.billing.staged⟩
  | .lineTiming => .lineTiming s.tables.timing
  | .scan => .scan s.tables.scan
  | .alertEnables => .alertEnables s.tables.enables
  | .accountState => .accountState (accountCopy s)

/-- The region of a copy. -/
def imageRegion : Image → RegionId
  | .reach _ => .reach
  | .turnouts _ => .turnouts
  | .rating _ => .rating
  | .accounts _ => .accounts
  | .tariff _ => .tariff
  | .lineTiming _ => .lineTiming
  | .scan _ => .scan
  | .alertEnables _ => .alertEnables
  | .accountState _ => .accountState

/-- A region erased (R178, R179 stage 1). -/
def eraseRegion (r : RegionId) (g : Regions) : Regions :=
  match r with
  | .reach => { g with reach := none }
  | .turnouts => { g with turnouts := none }
  | .rating => { g with rating := none }
  | .accounts => { g with accounts := none }
  | .tariff => { g with tariff := none }
  | .lineTiming => { g with lineTiming := none }
  | .scan => { g with scan := none }
  | .alertEnables => { g with alertEnables := none }
  | .accountState => { g with accountState := none }

/-- A region as an operation programs it: the header, the content with the bytes that the check runs over, and the
complete mark, exact or not (R178, R179 stages 2 to 4). -/
def programmed {α : Type} (bytes : α → List Byte) (mark : Bool) (h : Header) (x : α) : Stored α :=
  some ⟨h, x, regionCheck h (bytes x), mark⟩

/-- The region of a copy programmed with a header and that copy. -/
def programRegion (mark : Bool) (h : Header) (i : Image) (g : Regions) : Regions :=
  match i with
  | .reach t => { g with reach := programmed reachBytes mark h t }
  | .turnouts t => { g with turnouts := programmed (entryBytes turnoutBytes) mark h t }
  | .rating t => { g with rating := programmed (entryBytes halfBytes) mark h t }
  | .accounts t => { g with accounts := programmed (entryBytes accountBytes) mark h t }
  | .tariff t => { g with tariff := programmed tariffImageBytes mark h t }
  | .lineTiming t => { g with lineTiming := programmed timingBytes mark h t }
  | .scan t => { g with scan := programmed scanBytes mark h t }
  | .alertEnables t => { g with alertEnables := programmed enablesBytes mark h t }
  | .accountState t => { g with accountState := programmed accountImageBytes mark h t }

/-- What loading finds in a region: its header and content when it is complete, that is, when the complete mark reads
exactly and the check is correct (R178). -/
def found {α : Type} (bytes : α → List Byte) (x : Stored α) : Option (Header × α) :=
  match x with
  | none => none
  | some r => if r.mark && r.check == regionCheck r.header (bytes r.content) then some (r.header, r.content) else none

/-- What loading finds in the store: the complete regions (R178, R186, R187). -/
structure Found where
  reach : Option (Header × ReachTable)
  turnouts : Option (Header × Vector TurnoutEntry 16)
  rating : Option (Header × Vector HalfCurve 8)
  accounts : Option (Header × Vector AccountEntry 64)
  tariff : Option (Header × TariffImage)
  lineTiming : Option (Header × LineTiming)
  scan : Option (Header × ScanTable)
  alertEnables : Option (Header × BitVec 16)
  accountState : Option (Header × AccountImage)
  deriving DecidableEq, Repr

/-- Loading reads the regions (R186, R187). -/
def findRegions (g : Regions) : Found where
  reach := found reachBytes g.reach
  turnouts := found (entryBytes turnoutBytes) g.turnouts
  rating := found (entryBytes halfBytes) g.rating
  accounts := found (entryBytes accountBytes) g.accounts
  tariff := found tariffImageBytes g.tariff
  lineTiming := found timingBytes g.lineTiming
  scan := found scanBytes g.scan
  alertEnables := found enablesBytes g.alertEnables
  accountState := found accountImageBytes g.accountState

/-- The header of a region, when it is complete. -/
def headerOf (r : RegionId) (g : Found) : Option Header :=
  match r with
  | .reach => g.reach.map (·.1)
  | .turnouts => g.turnouts.map (·.1)
  | .rating => g.rating.map (·.1)
  | .accounts => g.accounts.map (·.1)
  | .tariff => g.tariff.map (·.1)
  | .lineTiming => g.lineTiming.map (·.1)
  | .scan => g.scan.map (·.1)
  | .alertEnables => g.alertEnables.map (·.1)
  | .accountState => g.accountState.map (·.1)

/-! ## Operations (R178..R180) -/

/-- Each operation takes the next write sequence, and the value then rises by one; what follows 4294967295 is free
(R178, log 12). -/
def takeSequence (s : State) : State :=
  if s.store.nextSeq < 4294967295 then { s with store := { s.store with nextSeq := s.store.nextSeq + 1 } }
  else { s with
    store := { s.store with nextSeq := (Config.freeSequence s.free).toNat }
    free := s.free + 1 }

/-- An operation begins: its copy is given, the write sequence is taken, the region is erased (R179). -/
def beginWrite (period : Nat) (i : Image) (commit : Option Byte) (serves : Bool) (s : State) : State :=
  let s1 := takeSequence s
  { s1 with store := { s1.store with
      regions := eraseRegion (imageRegion i) s1.store.regions
      op := some ⟨⟨s.store.nextSeq, period⟩, i, commit, serves⟩ } }

/-- A snapshot of ACCOUNT STATE begins and takes its copy. Taken after a RESTART was requested, it is the one that
serves it (R50, R180). -/
def beginSnapshot (s : State) : State :=
  beginWrite s.clock.period (copyOf .accountState s) none (s.mgmt.state == .restartPending)
    { s with store := { s.store with waiting := false } }

/-- The wipe's own work is under way; while it is, snapshot requests are discarded (R189). -/
def wiping (s : State) : Bool :=
  match s.store.wipe with
  | some (.erasing _) => true
  | some (.writing _) => true
  | _ => false

/-- A snapshot request (R180, R189). -/
def requestSnapshot (s : State) : State :=
  if wiping s then s
  else
    match s.store.op with
    | none => beginSnapshot s
    | some _ => { s with store := { s.store with waiting := true } }

/-- A store operation or a wipe step is in flight (R180, log 11). -/
def storeBusy (s : State) : Bool := s.store.op.isSome || wiping s

/-- The store state of STATUS DATA part 0 (R45, R180). -/
def storeCode (s : State) : Nat := if storeBusy s then (if s.store.waiting then 2 else 1) else 0

/-! ## Loading (R178, R186, R187, R169) -/

/-- The regions in the order the wipe takes them (R189). -/
def wipeOrder : List RegionId :=
  [.accountState, .reach, .turnouts, .rating, .accounts, .tariff, .lineTiming, .scan, .alertEnables]

/-- The table regions in order of code. -/
def tableRegions : List RegionId :=
  [.reach, .turnouts, .rating, .accounts, .tariff, .lineTiming, .scan, .alertEnables]

/-- The headers of the complete regions. -/
def completeHeaders (g : Found) : List Header := wipeOrder.filterMap fun r => headerOf r g

/-- Of two headers the one with the higher write sequence. -/
def laterHeader (best : Option Header) (h : Header) : Option Header :=
  match best with
  | none => some h
  | some b => if b.sequence < h.sequence then some h else some b

/-- The header with the highest write sequence (R178, R187). -/
def latestHeader (g : Found) : Option Header := (completeHeaders g).foldl laterHeader none

/-- The set of tables whose region is incomplete; table code k is bit k − 1 (R53, R186). -/
def incompleteTables (g : Found) : BitVec 8 :=
  (tableRegions.filter fun r => (headerOf r g).isNone).foldl (fun b r => b ||| (1#8 <<< (regionCode r - 1))) 0#8

/-- A region's content, or the factory value of its table (R186). -/
def contentOr {α : Type} (x : Option (Header × α)) (factory : α) : α := match x with | some (_, t) => t | none => factory

/-- The working copies that loading places (R186). -/
def loadTables (g : Found) : Tables where
  reach := contentOr g.reach {}
  turnouts := contentOr g.turnouts (.replicate 16 {})
  rating := contentOr g.rating (tableOf factoryHalf)
  accounts := contentOr g.accounts (.replicate 64 {})
  timing := contentOr g.lineTiming {}
  scan := contentOr g.scan {}
  enables := contentOr g.alertEnables 0xFFFF

/-- The restore result when the store is read (R187). -/
def loadResult (g : Found) : RestoreResult := if g.accountState.isSome then .restored else .void

/-- The period number that loading returns to the clock (R187). -/
def loadPeriod (g : Found) : Nat :=
  match g.accountState with
  | some (_, a) => a.period
  | none => match latestHeader g with | some h => h.period | none => 0

/-- The open counters of a slot at the end of loading (R161). -/
def loadCounters (g : Found) (accounts : Vector AccountEntry 64) (i : Fin 64) : Counters :=
  if (getAt accounts i).number = 0 then {}
  else
    match g.accountState with
    | some (_, a) => getAt a.counters i
    | none => { void := true }

/-- The metering unit at the end of loading (R161). -/
def loadMetering (g : Found) (accounts : Vector AccountEntry 64) : Metering where
  counters := tableOf (loadCounters g accounts)
  meters := match g.accountState with | some (_, a) => a.meters | none => .replicate 16 {}
  balance := match g.accountState with | some (_, a) => a.balance | none => {}
  record := none

/-- The station records at the end of loading (R146). -/
def loadStations (g : Found) : Vector StationRec 18 :=
  match g.accountState with
  | some (_, a) => mapTable (fun n => { unmetered := n }) a.unmetered
  | none => .replicate 18 {}

/-- The staged tariff held in a complete TARIFF region. -/
def heldStaged (g : Found) : Option Staged := match g.tariff with | some (_, t) => t.staged | none => none

/-- One above the edition at which the TARIFF region's staged tariff was formed, when it holds one (R169). -/
def editionAfter (g : Found) (other : Nat) : Nat :=
  match heldStaged g with
  | some x => (x.edition + 1) % 65536
  | none => other

/-- The active tariff of the TARIFF region, or the factory value (R169). -/
def heldActive (g : Found) : Tariff := match g.tariff with | some (_, t) => t.active | none => .replicate 4 {}

/-- The billing unit at the end of loading (R169, R177). -/
def loadBilling (g : Found) : Billing :=
  match g.accountState with
  | none => { active := heldActive g, edition := editionAfter g 0 }
  | some (_, a) =>
    if a.lock then
      { active := a.active.getD (heldActive g)
        staged := (heldStaged g).filter fun x => x.edition == a.edition
        lock := true
        edition := a.edition
        closes := a.closes
        bills := a.bills }
    else
      { active := heldActive g
        edition := editionAfter g a.edition
        closes := a.closes
        bills := a.bills }

/-- One above the highest write sequence found in a complete region, 1 when none is complete; what follows
4294967295 is free (R178, log 12). -/
def loadSequence (g : Found) (draw : Nat) : Nat :=
  match latestHeader g with
  | none => 1
  | some h => if h.sequence < 4294967295 then h.sequence + 1 else (Config.freeSequence draw).toNat

/-- Free values that `loadSequence` draws. -/
def loadDraws (g : Found) : Nat :=
  match latestHeader g with
  | none => 0
  | some h => if h.sequence < 4294967295 then 0 else 1

/-- The restart record that a loading which reads the store will write (R53). -/
def readRecord (kind : RestartKind) (g : Found) : RestartRecord := ⟨kind, loadResult g, incompleteTables g⟩

/-- Loading notes a store fault for every incomplete region (R186, R187). -/
def loadFault (g : Found) : Bool := incompleteTables g != 0 || g.accountState.isNone

/-- The warning level of a choice, in millivolts (R182, R190). -/
def warnLevel (choice : Nat) : Nat :=
  match choice with
  | 0 => 10800
  | 1 => 11200
  | 2 => 11600
  | _ => 12000

/-- The warning level choice that applies until the REACH table has been loaded (R182). -/
def factoryChoice : Nat := 1

/-- The supply status with which a restart begins: nothing is loaded yet, and the supply monitor compares by the factory
choice (R182, log 30). -/
def restartStatus (level : Nat) : SupplyStatus := if level < warnLevel factoryChoice then .low else .normal

/-- Every unit as its own chapter gives it for a restart, with the bypass relay closed, no operation in flight and
loading begun (R30, R54, R96, R114, R131, R146, R182, R185). What loading places is given. -/
def restartWith (tables : Tables) (period : Nat) (metering : Metering) (stations : Vector StationRec 18)
    (billing : Billing) (nextSeq : Nat) (l : Loading) (s : State) : State where
  pending := s.pending
  comms := {}
  lastTaken := none
  clock := { period := period, drawLimit := tables.reach.localDraw }
  tables := tables
  orders := {}
  carriage := {}
  gates := .replicate 16 {}
  gateWaiting := []
  scan := { stations := stations }
  metering := metering
  billing := billing
  mgmt := { restart := s.mgmt.restart }
  store := { regions := s.store.regions, nextSeq := nextSeq }
  supply := { s.supply with status := restartStatus s.supply.level, relayClosed := true }
  loading := some l
  free := s.free

/-- A restart that reads the store begins (R185..R187). -/
def restartReading (kind : RestartKind) (s : State) : State :=
  let g := findRegions s.store.regions
  let t := loadTables g
  restartWith t (loadPeriod g) (loadMetering g t.accounts) (loadStations g) (loadBilling g) (loadSequence g s.free)
    ⟨readRecord kind g, loadFault g⟩ { s with free := s.free + loadDraws g }

/-- The restart of a wipe: every region at its factory value, nothing read (R52, R185, R189). -/
def restartWiped (s : State) : State :=
  restartWith {} 0 {} (.replicate 18 {}) {} s.store.nextSeq ⟨⟨.wipe, .factory, 0xFF⟩, s.store.wipeFault⟩ s

/-! ## The wipe (R189) -/

/-- The content with which the wipe writes a region. -/
def factoryImage : RegionId → Image
  | .reach => .reach {}
  | .turnouts => .turnouts (.replicate 16 {})
  | .rating => .rating (tableOf factoryHalf)
  | .accounts => .accounts (.replicate 64 {})
  | .tariff => .tariff ⟨.replicate 4 {}, none⟩
  | .lineTiming => .lineTiming {}
  | .scan => .scan {}
  | .alertEnables => .alertEnables 0xFFFF
  | .accountState => .accountState {
      period := 0
      counters := .replicate 64 {}
      meters := .replicate 16 {}
      balance := {}
      unmetered := .replicate 18 0
      bills := []
      closes := []
      lock := false
      edition := 0
      active := none }

/-- The region that the wipe takes after a region (R189). -/
def nextRegion : RegionId → Option RegionId
  | .accountState => some .reach
  | .reach => some .turnouts
  | .turnouts => some .rating
  | .rating => some .accounts
  | .accounts => some .tariff
  | .tariff => some .lineTiming
  | .lineTiming => some .scan
  | .scan => some .alertEnables
  | .alertEnables => none

/-- The wipe erases a region (R189 step 1). -/
def beginErase (r : RegionId) (s : State) : State :=
  { s with store := { s.store with
      regions := eraseRegion r s.store.regions
      op := none
      waiting := false
      wipe := some (.erasing r) } }

/-- The wipe writes a region anew (R189 step 2); the header takes period number 0. -/
def beginWipeWrite (r : RegionId) (s : State) : State :=
  beginWrite 0 (factoryImage r) none false { s with store := { s.store with wipe := some (.writing r) } }

/-- COMMAND WIPE asks for the wipe: at once, or when the operation in flight has ended (R52, R189). -/
def requestWipe (s : State) : State :=
  match s.store.op with
  | none => beginErase .accountState s
  | some _ => { s with store := { s.store with wipe := some .waiting } }

/-! ## Operation ends (R179..R181, R189) -/

/-- The outcome of the operation in flight is in its region: complete with the copy, or, after a verify failure,
without the complete mark (R179, log 10). -/
def settleOp (op : StoreOp) (passed : Bool) (s : State) : State :=
  { s with store := { s.store with
      op := none
      regions := programRegion passed op.header op.image s.store.regions } }

/-- STORE FAULT is raised at every FAILED end (R179). -/
def raiseFailed (passed : Bool) (s : State) : State := if passed then s else raise .storeFault s

/-- The second reply to a STORE COMMIT: DONE or FAILED, not stored for repeats (R32, R33, R181). -/
def sendCommitEnd (op : StoreOp) (passed : Bool) (s : State) : State :=
  match op.commit with
  | none => s
  | some request =>
    sendOffice Kind.mgmtReply
      ([request] ++ be 1 Kind.storeCommit ++ be 1 (if passed then 0 else 4) ++ be 1 (regionCode (imageRegion op.image)))
      false s

/-- What follows the end of an operation that is no part of the wipe's own writing: the commanded restart, the
wipe, or a waiting snapshot (R50, R180, R189). A snapshot that waits when the commanded restart's own ends is dropped by the
restart unbegun (the model's choice, log 44). -/
def afterOp (op : StoreOp) (s : State) : State :=
  if op.servesRestart then restartReading .commanded s
  else if s.store.wipe = some .waiting then beginErase .accountState s
  else if s.store.waiting then beginSnapshot s
  else s

/-- The next step of the wipe after a region was erased. -/
def afterErase (r : RegionId) (s : State) : State :=
  match nextRegion r with
  | some r' => beginErase r' s
  | none => beginWipeWrite .accountState s

/-- The next step of the wipe after a region was written. -/
def afterWipeWrite (r : RegionId) (s : State) : State :=
  match nextRegion r with
  | some r' => beginWipeWrite r' s
  | none => restartWiped s

/-- A write of the wipe ends; a failure is kept for the restart, which raises STORE FAULT (R189). -/
def wipeWriteEnd (r : RegionId) (op : StoreOp) (passed : Bool) (s : State) : State :=
  let s1 := raiseFailed passed (settleOp op passed s)
  afterWipeWrite r { s1 with store := { s1.store with wipeFault := s1.store.wipeFault || !passed } }

/-- STORE_OPERATION_END (R179). -/
def operationEnd (passed : Bool) (s : State) : State :=
  match s.store.wipe, s.store.op with
  | some (.erasing r), _ => afterErase r s
  | some (.writing r), some op => wipeWriteEnd r op passed s
  | _, some op => afterOp op (sendCommitEnd op passed (raiseFailed passed (settleOp op passed s)))
  | _, none => s

/-- STORE_OPERATION_END (R179). -/
def execStoreOperationEnd (passed : Bool) (s : State) : Host.Outcome State Fault Refusal :=
  .next (whileRunning (operationEnd passed) s)

end Sys2Proof.Machine
end

