-- ==== Sys2Proof/Machine/Metering.lean ====
section
/-! DEFINITION. Machine/Metering.lean: pricing (09 section 9.2), interval volumes, credits, meters and allotments (08). -/

namespace Sys2Proof.Machine

/-! ## Pricing (R164..R166) -/

/-- The greatest value of a 32-bit volume, a 16-bit count and a 48-bit charge (R148..R150). -/
def volumeTop : Nat := 4294967295
def countTop : Nat := 65535
def chargeTop : Nat := 281474976710655

/-- How many of the litres at positions `v0 .. v0 + v - 1` lie in `lo .. hi - 1`. -/
def litresIn (v0 v lo hi : Nat) : Nat := min (v0 + v) hi - max v0 lo

/-- A credit split into tiers and overdraft, with its charge in micro-units (R164, R165). -/
structure Price where
  tier1 : Nat
  tier2 : Nat
  tier3 : Nat
  tier4 : Nat
  overdraft : Nat
  charge : Nat
  deriving DecidableEq, Repr

/-- The charge of a split credit (R165). -/
def chargeOf (t : TariffEntry) (t1 t2 t3 t4 beyond v : Nat) (c : OrderClass) : Nat :=
  t1 * t.rate1 + t2 * t.rate2 + t3 * t.rate3 + t4 * t.rate4 + beyond * t.overdraftRate
    + (match c with | .frost => v * t.surcharge | .normal => 0)

/-- A credit of `v` litres of a class is priced from the open volume before it (R164, R165). -/
def price (t : TariffEntry) (a : AccountEntry) (v0 v : Nat) (c : OrderClass) : Price :=
  let top := a.allotment * 1000
  let b2 := t.threshold2 * 1000
  let b3 := t.threshold3 * 1000
  let b4 := t.threshold4 * 1000
  let t1 := litresIn v0 v 0 (min top b2)
  let t2 := litresIn v0 v b2 (min top b3)
  let t3 := litresIn v0 v b3 (min top b4)
  let t4 := litresIn v0 v b4 top
  let beyond := litresIn v0 v top (v0 + v)
  ⟨t1, t2, t3, t4, beyond, chargeOf t t1 t2 t3 t4 beyond v c⟩

/-- The tariff entry of an account in the active tariff. -/
def tariffOf (s : State) (a : AccountEntry) : TariffEntry := getAt s.billing.active a.tariffClass

/-- The fixed charge of an order start, in micro-units (R166). -/
def fixedChargeOf (s : State) (a : AccountEntry) : Nat := (tariffOf s a).fixedCharge * 1000

/-- The counters after an order start (R166). -/
def chargeStart (amount : Nat) (c : Counters) : Counters :=
  { c with
    orderCount := satAdd countTop c.orderCount 1
    fixedCharges := satAdd chargeTop c.fixedCharges amount
    charge := satAdd chargeTop c.charge amount }

/-- The counters of a slot changed. -/
def mapCounters (i : Fin 64) (f : Counters → Counters) (s : State) : State :=
  { s with metering := { s.metering with counters := putAt s.metering.counters i (f (getAt s.metering.counters i)) } }

/-- The amount of an order's start, 0 for an account that no slot holds (log 28). -/
def startCharge (account : Nat) (s : State) : Nat :=
  match findSlot s.tables.accounts account with
  | some i => fixedChargeOf s (getAt s.tables.accounts i)
  | none => 0

/-- The fixed-charge entry of an order start (R86, R166). -/
def enterStart (account : Nat) (s : State) : State :=
  match findSlot s.tables.accounts account with
  | some i => mapCounters i (chargeStart (fixedChargeOf s (getAt s.tables.accounts i))) s
  | none => s

/-! ## Interval volume (R151) -/

/-- The half-litres of an interval (R151). -/
def halfLitres (prev cur seconds carry : Nat) : Nat := (prev + cur) * seconds + carry

/-- The interval volume in litres (R151). -/
def intervalVolume (prev cur seconds carry : Nat) : Nat := halfLitres prev cur seconds carry / 2

/-- The new half-litre carry (R151). -/
def intervalCarry (prev cur seconds carry : Nat) : Nat := halfLitres prev cur seconds carry % 2

/-! ## Meters and balance (R149, R150) -/

/-- Where a turnout interval goes (R152). -/
inductive CreditTarget where
  | order (o : OrderRec)
  | runOut (slot : Fin 64)
  | unordered
  deriving DecidableEq, Repr

/-- The first case of R152 that applies. -/
def creditTarget (t : Turnout) (s : State) : CreditTarget :=
  match runningOn t s.orders.table with
  | some o => .order o
  | none =>
    match (getAt s.gates t).runOut with
    | none => .unordered
    | some account =>
      match findSlot s.tables.accounts account with
      | some i => .runOut i
      | none => .unordered

/-- The amount a meter takes: cut to what brings its total to the maximum (R149). -/
def meterCut (m : Meters) (v : Nat) : Nat := min v (volumeTop - m.total)

/-- A turnout's meters after an interval (R149). -/
def meterAdd (target : CreditTarget) (v : Nat) (m : Meters) : Meters :=
  let w := meterCut m v
  match target with
  | .order _ => { m with total := m.total + w, credited := m.credited + w }
  | .runOut _ => { m with total := m.total + w, runOut := m.runOut + w }
  | .unordered => { m with total := m.total + w, unordered := m.unordered + w }

/-- The turnout's meters and the turnout sum take an interval (R149, R150). -/
def meterInterval (t : Turnout) (target : CreditTarget) (v : Nat) (s : State) : State :=
  { s with metering := { s.metering with
      meters := putAt s.metering.meters t (meterAdd target v (getAt s.metering.meters t))
      balance := { s.metering.balance with turnouts := satAdd volumeTop s.metering.balance.turnouts v } } }

/-! ## Credits (R153, R154) -/

/-- The counters after a credit that was priced (R148, R153, R154, R165). -/
def creditCounters (p : Price) (v : Nat) (frost runOut : Bool) (c : Counters) : Counters :=
  { c with
    openVol := satAdd volumeTop c.openVol v
    frostVol := if frost then satAdd volumeTop c.frostVol v else c.frostVol
    runOutVol := if runOut then satAdd volumeTop c.runOutVol v else c.runOutVol
    tier1 := satAdd volumeTop c.tier1 p.tier1
    tier2 := satAdd volumeTop c.tier2 p.tier2
    tier3 := satAdd volumeTop c.tier3 p.tier3
    tier4 := satAdd volumeTop c.tier4 p.tier4
    overdraftVol := satAdd volumeTop c.overdraftVol p.overdraft
    charge := satAdd chargeTop c.charge p.charge }

/-- The price of a credit to a slot as it stands. -/
def slotPrice (i : Fin 64) (v : Nat) (c : OrderClass) (s : State) : Price :=
  let a := getAt s.tables.accounts i
  price (tariffOf s a) a (getAt s.metering.counters i).openVol v c

/-- A credit enters a slot: volumes, split and charge (R153 steps 1 and 2, R154 steps 1 and 2). -/
def creditSlot (i : Fin 64) (v : Nat) (c : OrderClass) (frost runOut : Bool) (s : State) : State :=
  mapCounters i (creditCounters (slotPrice i v c s) v frost runOut) s

/-- The order record takes a credited volume with its charge (R89). -/
def creditRec (v amount : Nat) (o : OrderRec) : OrderRec :=
  match o.state with
  | .running q d c => { o with state := .running q (d + v) (c + amount) }
  | _ => o

/-- The order unit takes a credit for the record of a tag (R89, R153 step 3). -/
def creditOrder (tag v amount : Nat) (s : State) : State :=
  { s with orders := { s.orders with
      table := s.orders.table.map fun o => if o.tag == tag then creditRec v amount o else o } }

/-! ## The allotment test (R155, R156) -/

/-- A class's limit is reached by an open volume (section 8.4). -/
def limitReached (a : AccountEntry) (volume : Nat) (c : OrderClass) : Bool := decide (classLimit a c ≤ volume)

/-- A RUNNING record of an account and a class. -/
def isRunningOf (account : Nat) (c : OrderClass) (o : OrderRec) : Bool :=
  isRunningRec o && o.account == account && o.cls == c

/-- A class calls for the allotment event after a credit: its limit is reached, and the credit crossed it or a record
of the class runs (R155). -/
def classCalls (a : AccountEntry) (before after : Nat) (table : List OrderRec) (c : OrderClass) : Bool :=
  limitReached a after c && (!limitReached a before c || table.any (isRunningOf a.number c))

/-- The RUNNING records of an account whose class is named, that is, whose limit is reached (R92). -/
def allotmentTags (a : AccountEntry) (volume : Nat) (s : State) : List Nat :=
  tagsWhere (fun o => (limitReached a volume .normal && isRunningOf a.number .normal o)
    || (limitReached a volume .frost && isRunningOf a.number .frost o)) s

/-- The outcome of the allotment test after a credit: the event's records, when the event is handed (R155). -/
def allotmentTest (i : Fin 64) (before : Nat) (s : State) : Option (List Nat) :=
  let a := getAt s.tables.accounts i
  let after := (getAt s.metering.counters i).openVol
  if classCalls a before after s.orders.table .normal || classCalls a before after s.orders.table .frost then
    some (allotmentTags a after s)
  else none

/-- ALLOTMENT REACHED is raised with the event (R155, log 20). -/
def raiseAllotment (event : Option (List Nat)) (s : State) : State :=
  if event.isSome then raise .allotmentReached s else s

/-- The allotment test of a write that lowers a limit: the event is handed when a class is named (R156). -/
def allotmentAtWrite (i : Fin 64) (s : State) : State :=
  let a := getAt s.tables.accounts i
  let volume := (getAt s.metering.counters i).openVol
  if limitReached a volume .normal || limitReached a volume .frost then
    endTags .allotment (allotmentTags a volume s) (raise .allotmentReached s)
  else s

/-! ## Intervals (R151..R154) -/

/-- A turnout interval credited to the order running on the turnout (R153 steps 1 to 3): the state, and the tags
that the allotment test names (step 4). -/
def creditToOrder (t : Turnout) (o : OrderRec) (v : Nat) (s : State) : State × Option (List Nat) :=
  let s1 := meterInterval t (.order o) v s
  match findSlot s1.tables.accounts o.account with
  | none => (creditOrder o.tag v 0 s1, none)
  | some i =>
    let before := (getAt s1.metering.counters i).openVol
    let amount := (slotPrice i v o.cls s1).charge
    let s2 := creditOrder o.tag v amount (creditSlot i v o.cls (isFrost o.cls) false s1)
    (s2, allotmentTest i before s2)

/-- A run-out credit (R154): priced as class NORMAL, nothing handed to the order unit. -/
def creditToRunOut (t : Turnout) (i : Fin 64) (v : Nat) (s : State) : State × Option (List Nat) :=
  let s1 := meterInterval t (.runOut i) v s
  let before := (getAt s1.metering.counters i).openVol
  let s2 := creditSlot i v .normal false true s1
  (s2, allotmentTest i before s2)

/-- An interval nobody ordered (R152 case 3). -/
def creditUnordered (t : Turnout) (v : Nat) (s : State) : State :=
  let s1 := meterInterval t .unordered v s
  if v = 0 then s1 else raise .unorderedFlow s1

/-- A turnout interval is credited (R152). The second component is the allotment event the credit hands over. -/
def creditInterval (t : Turnout) (v : Nat) (s : State) : State × Option (List Nat) :=
  match creditTarget t s with
  | .order o => creditToOrder t o v s
  | .runOut i => creditToRunOut t i v s
  | .unordered => (creditUnordered t v s, none)

/-- An interval of the inflow flume (R150). -/
def creditInflow (v : Nat) (s : State) : State :=
  { s with metering := { s.metering with balance := { s.metering.balance with
      inflow := satAdd volumeTop s.metering.balance.inflow v } } }

/-- An interval of the outflow flume (R150). -/
def creditOutflow (v : Nat) (s : State) : State :=
  { s with metering := { s.metering with balance := { s.metering.balance with
      outflow := satAdd volumeTop s.metering.balance.outflow v } } }

/-- The gate unit's trim and the order ends of an allotment event. When the trim would be made before the ends, the
gate unit takes it after a free number of them, because R143 leaves the order open (log 18). -/
def endsAndTrim (t : Turnout) (measured : Nat) (tags : List Nat) (s : State) : State :=
  if tags.isEmpty || (trimCall t measured s).isNone then takeReading t measured (endTags .allotment tags s)
  else
    let k := Config.freeOrder s.free % (tags.length + 1)
    let s1 := { s with free := s.free + 1 }
    endTags .allotment (tags.drop k) (takeReading t measured (endTags .allotment (tags.take k) s1))

/-- A turnout interval handed over, with the trim hand-over that follows it (R143). -/
def handTurnoutInterval (t : Turnout) (v measured : Nat) (s : State) : State :=
  let r := creditInterval t v s
  endsAndTrim t measured (r.2.getD []) (raiseAllotment r.2 r.1)

end Sys2Proof.Machine
end

