-- ==== Sys2Proof/Machine/Scan.lean ====
section
/-! DEFINITION. Machine/Scan.lean: the scan unit (07_flume_scanning_and_rating). -/

namespace Sys2Proof.Machine

/-- The inflow flume station, 17, and the outflow flume station, 18. -/
def inflowStation : Station := 16
def outflowStation : Station := 17

/-- The turnout of a turnout flume station. -/
def turnoutOfStation (x : Station) : Option Turnout := if h : x.val < 16 then some ⟨x.val, h⟩ else none

/-- A station record changed. -/
def mapStation (x : Station) (f : StationRec → StationRec) (s : State) : State :=
  { s with scan := { s.scan with stations := putAt s.scan.stations x (f (getAt s.scan.stations x)) } }

/-! ## The scan cycle (R134..R136) -/

/-- The scan list by the tables as they stand (R135). -/
def scanListOf (s : State) : List Station :=
  if ownReach s = 0 then []
  else
    (List.finRange 18).filter fun x =>
      match turnoutOfStation x with
      | some t => (getAt s.tables.turnouts t).enabled
      | none => if x = inflowStation then s.tables.scan.inflow else s.tables.scan.outflow

/-- A station record set to NEW at a run second; its unmetered seconds are kept (R135). -/
def newStation (run : Nat) (r : StationRec) : StationRec := { ref := run, unmetered := r.unmetered }

/-- The unmetered seconds with a LOST record's pending gap settled (R132, R135, R142, R145). -/
def settledUnmetered (run : Nat) (r : StationRec) : Nat := satAdd unmeteredTop r.unmetered (pendingGap run r)

/-- A station record when a scan begins: a station that joined or left the list becomes NEW, and one that left while
LOST is settled first (R135). -/
def relist (run : Nat) (old new : List Station) (x : Station) (r : StationRec) : StationRec :=
  if old.contains x == new.contains x then r
  else if new.contains x then newStation run r
  else newStation run { r with unmetered := settledUnmetered run r }

/-- The station records when a scan with a new list begins (R135). -/
def relistAll (run : Nat) (old new : List Station) (v : Vector StationRec 18) : Vector StationRec 18 :=
  tableOf fun x => relist run old new x (getAt v x)

/-- A HEAD POLL is placed for the station at the position, and its timer starts (R136, R42). It goes to the D queue; one of
a scan that goes on while the part is unassigned is for reach 0 and goes to the U queue (R20, log 24). -/
def placePoll (x : Station) (resolution settle : Nat) (rest : List Station) (s : State) : State :=
  let s1 := sendStation (x.val + 1) Kind.headPoll (be 1 resolution ++ be 1 settle) false s
  { s1 with scan := { s.scan with
      phase := .scanning resolution settle x rest
      outstanding := true
      pollTimer := some s.tables.timing.pollReply } }

/-- A scan begins (R135). With an empty list it ends at once. -/
def beginScan (s : State) : State :=
  let list := scanListOf s
  let scan := { s.scan with
    stations := relistAll s.clock.run s.scan.list list s.scan.stations
    list := list
    phase := .idle
    pending := false
    outstanding := false
    pollTimer := none }
  match list with
  | [] => { s with scan := scan }
  | x :: rest => placePoll x s.tables.scan.resolution s.tables.scan.settle rest { s with scan := scan }

/-- SCAN_INTERVAL_EXPIRY (R134): the timer starts again with the interval held now. -/
def intervalExpiry (s : State) : State :=
  match s.scan.interval with
  | none => s
  | some _ =>
    let s1 := { s with scan := { s.scan with interval := some s.tables.scan.interval } }
    match s.scan.phase with
    | .idle => beginScan s1
    | .scanning _ _ _ _ =>
      if s.scan.pending then s1
      else raise .scanOverrun { s1 with scan := { s1.scan with pending := true } }

/-- A poll is completed: the next poll is placed, or the scan ends and a pending one begins (R134, R136). -/
def completePoll (s : State) : State :=
  match s.scan.phase with
  | .idle => s
  | .scanning resolution settle _ (x :: rest) => placePoll x resolution settle rest s
  | .scanning _ _ _ [] =>
    if s.scan.pending then beginScan s
    else { s with scan := { s.scan with phase := .idle, outstanding := false, pollTimer := none } }

/-! ## Misses (R139) -/

/-- A station record after a miss (R139). -/
def missedStation (r : StationRec) : StationRec :=
  let m := min 3 (r.misses + 1)
  { r with misses := m, state := if m = 3 then .lost else r.state }

/-- A miss makes the record LOST (R139). -/
def becomesLost (r : StationRec) : Bool := (r.state != .lost) && decide (2 ≤ r.misses)

/-- A miss of the station at the position: it is counted, and then its poll is completed (R136, R138, R139; the order is the
model's choice, log 41). -/
def missPoll (x : Station) (s : State) : State :=
  let s1 := mapStation x missedStation s
  completePoll (if becomesLost (getAt s.scan.stations x) then raise .stationLost s1 else s1)

/-- POLL_REPLY_TIMEOUT (R139). -/
def pollTimeout (s : State) : State :=
  match s.scan.phase, s.scan.outstanding, s.scan.pollTimer with
  | .scanning _ _ x _, true, some _ => missPoll x s
  | _, _, _ => s

/-! ## Rating (R140, R141) -/

/-- The flow at a head on or after the first point, along the line joining two points (R140). -/
def flowBetween (p q : RatingPoint) (head : Nat) : Nat :=
  p.flow + (q.flow - p.flow) * (head - p.head) / (q.head - p.head)

/-- The curve flow at a head (R140). -/
def curveFlow (head : Nat) : List RatingPoint → Nat
  | [] => 0
  | [p] => p.flow
  | p :: q :: rest =>
    if head ≤ p.head then p.flow
    else if head < q.head then flowBetween p q head
    else curveFlow head (q :: rest)

/-- The curve that converts a station's heads (R140). -/
def curveOf (x : Station) (s : State) : Fin 4 :=
  match turnoutOfStation x with
  | some t => Fin.ofNat 4 (getAt s.tables.turnouts t).curve
  | none => if x = inflowStation then 2 else 3

/-- The points of a station's curve. -/
def pointsOf (x : Station) (s : State) : List RatingPoint := curvePoints s.tables.rating (curveOf x s)

/-- The flow scale of a station (R140). -/
def flowScale (x : Station) : Nat := match turnoutOfStation x with | some _ => 1 | none => 5

/-- The rate of a head before the tests of R141. -/
def convertedRate (x : Station) (head : Nat) (s : State) : Nat := curveFlow head (pointsOf x s) * flowScale x

/-- A head above the last point (R141). -/
def isOffRating (x : Station) (head : Nat) (s : State) : Bool :=
  match (pointsOf x s).getLast? with
  | some p => decide (p.head < head)
  | none => false

/-- The accepted rate: a turnout flume's rate below the leak threshold is 0 (R141). -/
def acceptedRate (x : Station) (head : Nat) (s : State) : Nat :=
  let r := convertedRate x head s
  match turnoutOfStation x with
  | some _ => if r < s.tables.reach.leak then 0 else r
  | none => r

/-! ## Readings (R137, R138, R142, R143) -/

/-- The head of a reading of the outstanding poll, or none for a miss (R138). -/
def headOf (resolution : Nat) (body : List Byte) : Option Nat :=
  if body.length ≠ 3 then none
  else if field body 2 1 ≠ resolution then none
  else if 2 ^ resolution ≤ field body 0 2 then none
  else some (field body 0 2 * 2 ^ (16 - resolution))

/-- A record after an accepted reading that sets a baseline (R142). -/
def baselineStation (run rate : Nat) (r : StationRec) : StationRec :=
  { state := .live
    misses := 0
    rate := rate
    ref := run
    unmetered := settledUnmetered run r
    carry := 0 }

/-- The elapsed seconds of the interval that a reading ends (R143). -/
def elapsedOf (run : Nat) (r : StationRec) : Nat := run - r.ref

/-- A LIVE record after an accepted reading (R143). -/
def intervalStation (run rate : Nat) (r : StationRec) : StationRec :=
  { r with
    misses := 0
    rate := rate
    ref := run
    carry := intervalCarry r.rate rate (elapsedOf run r) r.carry }

/-- A record after an accepted reading, by its state (R142, R143). -/
def acceptedStation (run rate : Nat) (r : StationRec) : StationRec :=
  match r.state with
  | .live => intervalStation run rate r
  | _ => baselineStation run rate r

/-- The volume of the interval that a reading ends; a baseline has none before it (R142, R143, R151). -/
def volumeOf (run rate : Nat) (r : StationRec) : Option Nat :=
  match r.state with
  | .live => some (intervalVolume r.rate rate (elapsedOf run r) r.carry)
  | _ => none

/-- What an accepted reading hands on, to metering and then to the gate unit (R142, R143). -/
def handOn (x : Station) (volume : Option Nat) (rate : Nat) (s : State) : State :=
  match turnoutOfStation x, volume with
  | some t, some v => handTurnoutInterval t v rate s
  | some t, none => takeReading t rate s
  | none, some v => if x = inflowStation then creditInflow v s else creditOutflow v s
  | none, none => s

/-- An accepted reading (R138, R140..R143): conversion, record, completion of the poll, hand-over (log 19). -/
def acceptReading (x : Station) (head : Nat) (s : State) : State :=
  let r := getAt s.scan.stations x
  let rate := acceptedRate x head s
  let s1 := if isOffRating x head s then raise .offRating s else s
  let s2 := mapStation x (acceptedStation s.clock.run rate) s1
  handOn x (volumeOf s.clock.run rate r) rate (completePoll s2)

/-- The scan unit takes a HEAD READING (R137, R138). -/
def takeHeadReading (x : Station) (body : List Byte) (s : State) : State :=
  match s.scan.phase, s.scan.outstanding with
  | .scanning resolution _ y _, true =>
    if x = y then
      match headOf resolution body with
      | some head => acceptReading x head s
      | none => missPoll x s
    else countRefusedSource .d s
  | _, _ => countRefusedSource .d s

/-! ## Period close and end of loading (R145, R146) -/

/-- A record at a period close: settled, and its unmetered seconds zeroed (R145). -/
def closedStation (run : Nat) (r : StationRec) : StationRec :=
  { r with
    ref := match r.state with | .lost => run | _ => r.ref
    unmetered := 0 }

/-- The unmetered seconds that the scan unit hands over at a period close (R145). -/
def closeUnmetered (s : State) (x : Station) : Nat := settledUnmetered s.clock.run (getAt s.scan.stations x)

/-- The scan unit at a period close (R145). -/
def closeScan (s : State) : State :=
  { s with scan := { s.scan with stations := mapTable (closedStation s.clock.run) s.scan.stations } }

/-- The scan unit at the end of loading: the interval timer starts and the first scan begins (R134, R146). -/
def startScan (s : State) : State :=
  beginScan { s with scan := { s.scan with interval := some s.tables.scan.interval } }

/-- SCAN_INTERVAL_EXPIRY (R134). -/
def execScanIntervalExpiry (s : State) : Host.Outcome State Fault Refusal := .next (whileRunning intervalExpiry s)

/-- POLL_REPLY_TIMEOUT (R139). -/
def execPollReplyTimeout (s : State) : Host.Outcome State Fault Refusal := .next (whileRunning pollTimeout s)

end Sys2Proof.Machine
end

