-- ==== Sys2Proof/Machine/Billing.lean ====
section
/-! DEFINITION. Machine/Billing.lean: tariffs, period close and bills (09_tariffs_and_bills). -/

namespace Sys2Proof.Machine

/-- The close list has four places, the bill list 128 (R163). -/
def closePlaces : Nat := 4
def billPlaces : Nat := 128

/-! ## Tariff (R167, R168) -/

/-- An accepted TARIFF write: the active tariff while the lock is clear, the staged tariff while it is set (R167). -/
def writeTariffEntry (c : Fin 4) (e : TariffEntry) (b : Billing) : Billing :=
  if b.lock then
    match b.staged with
    | none => { b with staged := some ⟨putAt b.active c e, b.edition⟩ }
    | some x => { b with staged := some { x with entries := putAt x.entries c e } }
  else { b with active := putAt b.active c e }

/-- COMMAND LOCK TARIFF (R51, R167). -/
def lockTariff (b : Billing) : Billing :=
  if b.lock then b else { b with lock := true, edition := (b.edition + 1) % 65536 }

/-- A close completion promotes the staged tariff (R168). -/
def promoteTariff (b : Billing) : Billing :=
  match b.staged with
  | none => b
  | some x => { b with active := x.entries, staged := none, edition := (b.edition + 1) % 65536 }

/-- The lock code of STATUS DATA part 0 (R45, R167). -/
def lockCode (b : Billing) : Nat := if b.lock then (if b.staged.isSome then 2 else 1) else 0

/-! ## Period close (R170..R174) -/

/-- A slot needs a bill (R170). -/
def needsBill (a : AccountEntry) (c : Counters) : Bool :=
  a.number != 0 && (c.openVol != 0 || c.charge != 0 || c.orderCount != 0 || c.void)

/-- The slots that need a bill, in slot order. -/
def slotsToBill (s : State) : List (Fin 64) :=
  (List.finRange 64).filter fun i => needsBill (getAt s.tables.accounts i) (getAt s.metering.counters i)

/-- The bill made from one slot (R172). -/
def makeBill (period : Nat) (heldUntil : Option (Nat × Nat)) (a : AccountEntry) (c : Counters) : Bill where
  account := a.number
  period := period
  tier1 := c.tier1
  tier2 := c.tier2
  tier3 := c.tier3
  tier4 := c.tier4
  overdraftVol := c.overdraftVol
  frostVol := c.frostVol
  runOutVol := c.runOutVol
  orderCount := c.orderCount
  fixedCharges := c.fixedCharges
  charge := c.charge
  void := c.void
  heldUntil := heldUntil

/-- The bills of a close in ascending order of account number (R171 step 1). -/
def billsOf (period : Nat) (heldUntil : Option (Nat × Nat)) (s : State) : List Bill :=
  sortBy (·.account)
    ((slotsToBill s).map fun i => makeBill period heldUntil (getAt s.tables.accounts i) (getAt s.metering.counters i))

/-- The flume station of a turnout. -/
def flumeOf (t : Turnout) : Station := ⟨t.val, by omega⟩

/-- The reach period record of a close (R174). -/
def periodRecordOf (period : Nat) (s : State) : PeriodRecord where
  period := period
  entries := tableOf fun t =>
    if (getAt s.tables.turnouts t).enabled then
      some ⟨(getAt s.metering.meters t).total, (getAt s.metering.meters t).unordered, closeUnmetered s (flumeOf t)⟩
    else none
  inflow := s.metering.balance.inflow
  outflow := s.metering.balance.outflow

/-- The cut: the reach period record is written, then counters, meters and balance are zeroed (R159). -/
def cutMetering (period : Nat) (s : State) : State :=
  closeScan { s with metering := { record := some (periodRecordOf period s) } }

/-- Held-until: the period number and period seconds when the completion is taken (R172). -/
def heldUntilNow (held : Bool) (s : State) : Option (Nat × Nat) :=
  if held then some (s.clock.period, now s) else none

/-- A close is completed (R171). -/
def completeClose (held : Bool) (period : Nat) (rest : List Nat) (s : State) : State :=
  let bills := billsOf period (heldUntilNow held s) s
  let s1 := cutMetering period s
  requestSnapshot { s1 with billing := promoteTariff { s.billing with
    bills := s.billing.bills ++ bills
    closes := rest } }

/-- The oldest close has room for every bill it needs (R170). -/
def closeFits (s : State) : Bool := decide ((slotsToBill s).length + s.billing.bills.length ≤ billPlaces)

/-- The completion test, made again after each completion (R170). The first argument bounds the closes tested. -/
def completionTest (held : Bool) : Nat → State → State
  | 0, s => s
  | k + 1, s =>
    match s.billing.closes with
    | [] => s
    | p :: rest =>
      if closeFits s then completionTest held k (completeClose held p rest s) else raise .closeHeld s

/-- The billing unit takes a period close event carrying a period number (R170). A close that joins behind another
is held as it joins; a fifth is not listed. -/
def takeClose (period : Nat) (s : State) : State :=
  let n := s.billing.closes.length
  let listed := { s with billing := { s.billing with closes := s.billing.closes ++ [period] } }
  if n = 0 then completionTest false 1 listed
  else if n < closePlaces then completionTest true (n + 1) (raise .closeHeld listed)
  else completionTest true n (raise .closeHeld s)

/-- PERIOD_CLOSE: the oldest period close event raised by the clock is taken (R170). -/
def periodCloseEvent (s : State) : State :=
  match s.billing.raised with
  | [] => s
  | p :: rest => takeClose p { s with billing := { s.billing with raised := rest } }

/-- The completion test that follows a COLLECT (R176). Every close on the list is held. -/
def testAfterCollect (s : State) : State := completionTest true s.billing.closes.length s

/-- PERIOD_CLOSE (R170). -/
def execPeriodClose (s : State) : Host.Outcome State Fault Refusal := .next (whileRunning periodCloseEvent s)

end Sys2Proof.Machine
end

