-- ==== Sys2Proof/Machine/Orders.lean ====
section
/-! DEFINITION. Machine/Orders.lean: the order unit (04_water_orders), with the inflow sum that admission asks about
(05 R99, R100). -/

namespace Sys2Proof.Machine

/-! ## Sums and windows (R70, R73, R94, R99, R100) -/

/-- A window `a .. b - 1` covers a second. -/
def covers (a b t : Nat) : Bool := decide (a ≤ t) && decide (t < b)

/-- An order record's window covers a second (R70). -/
def orderCovers (t : Nat) (o : OrderRec) : Bool := covers o.start o.stop t

/-- Two windows overlap: each begins before the other ends (R70). -/
def overlaps (a b c d : Nat) : Bool := decide (a < d) && decide (c < b)

/-- A record is PROVISIONAL. -/
def isProvisional (o : OrderRec) : Bool := match o.state with | .provisional _ => true | _ => false

/-- The total rate of the records that a test picks and whose windows cover a second. -/
def rateAt (p : OrderRec → Bool) (table : List OrderRec) (t : Nat) : Nat :=
  ((table.filter fun o => p o && orderCovers t o).map (·.rate)).sum

/-- Counted in the general sum: NORMAL in every state, FROST once CONFIRMED (R73). -/
def inGeneral (o : OrderRec) : Bool := !isFrost o.cls || !isProvisional o

/-- Counted in the frost sum (R73). -/
def inFrost (o : OrderRec) : Bool := isFrost o.cls

/-- The general sum at a second (R73). -/
def generalSum (table : List OrderRec) (t : Nat) : Nat := rateAt inGeneral table t

/-- The frost sum at a second (R73). -/
def frostSum (table : List OrderRec) (t : Nat) : Nat := rateAt inFrost table t

/-- The booked draw at a second (R73). -/
def bookedDraw (table : List OrderRec) (t : Nat) : Nat := max (generalSum table t) (frostSum table t)

/-- A test holds at every second from `a` on, before `b` when `b` is given. The quantities tested can rise only at the
seconds `rises`, so those in the span and its first second stand for all of them. -/
def everySecond (a : Nat) (b : Option Nat) (rises : List Nat) (p : Nat → Bool) : Bool :=
  let inSpan := fun t => decide (a ≤ t) && (match b with | some e => decide (t < e) | none => true)
  (a :: rises).all fun t => !inSpan t || p t

/-- Some second of `a .. b - 1` fails a limit. -/
def someSecondOver (a b : Nat) (rises : List Nat) (sum : Nat → Nat) (limit : Nat) : Bool :=
  !everySecond a (some b) rises fun t => decide (sum t ≤ limit)

/-- The seconds at which a sum over the order table can rise. -/
def orderStarts (table : List OrderRec) : List Nat := table.map (·.start)

/-- An order record's rate in own inflow time (R73, R99). -/
def shiftedCovers (lag t : Nat) (o : OrderRec) : Bool := covers (o.start - lag) (o.stop - lag) t

/-- The inflow sum at a second with a given tail minimum (R99). -/
def inflowSum (tail lag : Nat) (table : List OrderRec) (list : List CarriageRec) (t : Nat) : Nat :=
  tail + ((table.filter (shiftedCovers lag t)).map (·.rate)).sum
    + ((list.filter fun r => covers r.start r.stop t).map (·.rate)).sum

/-- The seconds at which the inflow sum can rise. -/
def inflowRises (lag : Nat) (table : List OrderRec) (list : List CarriageRec) : List Nat :=
  table.map (fun o => o.start - lag) ++ list.map (·.start)

/-- The carriage unit's answer: rate `r` fits over the window `a .. b - 1` in own inflow time (R100). -/
def fits (r a b : Nat) (s : State) : Bool :=
  let lag := s.tables.reach.travelLag
  everySecond (max a (now s)) (some b) (inflowRises lag s.orders.table s.carriage.list) fun t =>
    decide (inflowSum s.tables.reach.tailMin lag s.orders.table s.carriage.list t + r ≤ s.tables.reach.capacity)

/-- The law of the carriage capacity with a written capacity and tail minimum (R35, R99, R100). -/
def carriageLaw (capacity tail : Nat) (s : State) : Bool :=
  let lag := s.tables.reach.travelLag
  everySecond (now s) none (inflowRises lag s.orders.table s.carriage.list) fun t =>
    decide (inflowSum tail lag s.orders.table s.carriage.list t ≤ capacity)

/-- Every booked draw from the present on is within a limit (R35, R73). -/
def drawLaw (limit : Nat) (s : State) : Bool :=
  everySecond (now s) none (orderStarts s.orders.table) fun t => decide (bookedDraw s.orders.table t ≤ limit)

/-! ## Tags and sequences (R71) -/

/-- The next tag: the smallest above the counter that no record holds, counting on from 255 to 1. -/
def nextTag (counter : Nat) (table : List OrderRec) : Nat :=
  (((List.range 255).map fun i => (counter + i) % 255 + 1).find? fun t => !table.any fun o => o.tag == t).getD 1

/-- The confirmation sequence of a CONFIRMED or RUNNING record. -/
def sequenceOf (o : OrderRec) : Option Nat :=
  match o.state with
  | .provisional _ => none
  | .confirmed q => some q
  | .running q _ _ => some q

/-- The key of the order of sequence; in the shedding order a larger key is walked first (R71, R94). -/
def sequenceKey (o : OrderRec) : Nat := (sequenceOf o).getD 0

/-- A record with its sequence changed. -/
def withSequence (q : Nat) (o : OrderRec) : OrderRec :=
  match o.state with
  | .provisional _ => o
  | .confirmed _ => { o with state := .confirmed q }
  | .running _ v c => { o with state := .running q v c }

/-- The tags of the CONFIRMED and RUNNING records in ascending order of sequence. -/
def tagsBySequence (table : List OrderRec) : List Nat :=
  (sortBy sequenceKey (table.filter fun o => (sequenceOf o).isSome)).map (·.tag)

/-- The CONFIRMED and RUNNING records renumbered 1 to k in their order of sequence (R71). -/
def renumber (u : OrderUnit) : OrderUnit :=
  let tags := tagsBySequence u.table
  { u with
    table := u.table.map fun o =>
      match sequenceOf o with
      | none => o
      | some _ => withSequence (tags.idxOf o.tag + 1) o
    confCounter := tags.length }

/-- The order unit ready to give the next sequence: renumbered when the counter stands at 65535 (R71). -/
def readySequence (u : OrderUnit) : OrderUnit := if u.confCounter = 65535 then renumber u else u

/-! ## Admission (R74..R80) -/

/-- The frost question: a call is present and its window covers the order window (R66). -/
def frostAnswer (c : Clock) (a b : Nat) : Bool :=
  match c.frost with
  | some w => decide (w.start ≤ a) && decide (b ≤ w.stop)
  | none => false

/-- The order horizon (R76). -/
def orderHorizon : Nat := 604800

/-- The volume still to run of a record, in litres (R77). A RUNNING record whose end has passed while its raised end event
waits has 0 still to run (the model's choice, log 43). -/
def toRun (t : Nat) (o : OrderRec) : Nat := if isRunningRec o then o.rate * (o.stop - t) else o.rate * (o.stop - o.start)

/-- The volumes that check 9 adds: open volume, volume still to run of the account's records, the new order's (R77). -/
def accountDemand (i : Fin 64) (q : OrderRequest) (s : State) : Nat :=
  (getAt s.metering.counters i).openVol
    + ((s.orders.table.filter fun o => o.account == q.account).map (toRun (now s))).sum + q.rate * q.duration

/-- The limit of check 9 (R77). -/
def admissionLimit (a : AccountEntry) (c : OrderClass) : Nat :=
  match c with
  | .normal => a.allotment * 1000
  | .frost => (a.allotment + a.overdraft) * 1000

/-- Check 10 (R78): every own record counts against a NORMAL order, the frost sum against a FROST order. -/
def drawFits (q : OrderRequest) (s : State) : Bool :=
  let limit := s.clock.drawLimit
  let sum := match q.cls with
    | .normal => rateAt (fun _ => true) s.orders.table
    | .frost => frostSum s.orders.table
  everySecond q.start (some (q.start + q.duration)) (orderStarts s.orders.table) fun t => decide (sum t + q.rate ≤ limit)

/-- The account of an order: a slot holds the number and its office active is yes (R75). -/
def activeSlot (account : Nat) (s : State) : Option (Fin 64) :=
  (findSlot s.tables.accounts account).filter fun i => (getAt s.tables.accounts i).active

/-- A gate record is in FAULT. -/
def inFault (g : GateRec) : Bool := match g.state with | .fault _ => true | _ => false

/-- Check 3 (R75). -/
def turnoutReady (t : Turnout) (s : State) : Bool :=
  (getAt s.tables.turnouts t).enabled && (getAt s.gates t).ready && !inFault (getAt s.gates t)

/-- Check 6 (R76). -/
def startOk (q : OrderRequest) (s : State) : Bool :=
  decide (now s + s.tables.reach.orderLead ≤ q.start) && decide (q.start ≤ now s + orderHorizon)

/-- Check 7 (R76). -/
def windowFree (t : Turnout) (q : OrderRequest) (s : State) : Bool :=
  !s.orders.table.any fun o => o.turnout == t && overlaps q.start (q.start + q.duration) o.start o.stop

/-- Check 8 (R76). -/
def frostOk (q : OrderRequest) (a : AccountEntry) (s : State) : Bool :=
  match q.cls with
  | .normal => true
  | .frost => a.frostEligible && frostAnswer s.clock q.start (q.start + q.duration)

/-- The reason of the first admission check from 3 on that fails, given the account's slot (R75..R78, R84). -/
def laterChecks (t : Turnout) (q : OrderRequest) (i : Fin 64) (s : State) : Option Nat :=
  let a := getAt s.tables.accounts i
  if !turnoutReady t s then some 5
  else if !permits a.permitted t then some 6
  else if !(decide (1 ≤ q.rate) && decide (q.rate ≤ (getAt s.tables.turnouts t).maxRate)) then some 7
  else if !startOk q s then some 8
  else if !windowFree t q s then some 9
  else if !frostOk q a s then some 10
  else if admissionLimit a q.cls < accountDemand i q s then some 11
  else if !drawFits q s then some 12
  else if !fits q.rate (shifted s q.start) (shifted s (q.start + q.duration)) s then some 13
  else if 48 ≤ s.orders.table.length then some 14
  else none

/-- The reason of the first of the twelve admission checks that fails (R75..R78). -/
def refusalReason (t : Turnout) (q : OrderRequest) (s : State) : Option Nat :=
  if s.clock.status = .unset then some 2
  else if s.supply.status ≠ .normal then some 3
  else
    match activeSlot q.account s with
    | none => some 4
    | some i => laterChecks t q i s

/-- The record of an admitted order (R79). -/
def admittedRecord (t : Turnout) (q : OrderRequest) (s : State) : OrderRec where
  tag := nextTag s.orders.tagCounter s.orders.table
  terminal := q.terminal
  account := q.account
  turnout := t
  cls := q.cls
  start := q.start
  stop := q.start + q.duration
  rate := q.rate
  state := .provisional (now s + s.tables.reach.confirmHold)

/-- ORDER REPLY PROVISIONAL (R79, R84). -/
def sendProvisional (o : OrderRec) (deadline : Nat) (s : State) : State :=
  sendNotice o.turnout (be 1 o.terminal ++ be 1 o.tag ++ be 1 0 ++ be 3 o.start ++ be 3 o.stop ++ be 3 deadline)
    (isFrost o.cls) s

/-- The DEMAND of an admitted record (R80). -/
def sendDemand (o : OrderRec) (deadline : Nat) (s : State) : State :=
  sendOffice Kind.demand
    (demandBytes ⟨ownReach s, o.tag, o.cls, shifted s o.start, shifted s o.stop, o.rate, deadline⟩) (isFrost o.cls) s

/-- An order is admitted (R79). -/
def admitOrder (t : Turnout) (q : OrderRequest) (s : State) : State :=
  let o := admittedRecord t q s
  let d := now s + s.tables.reach.confirmHold
  raiseDue (sendDemand o d (sendProvisional o d
    { s with orders := { s.orders with table := insertOrder o s.orders.table, tagCounter := o.tag } }))

/-- The order unit takes an ORDER (R74). -/
def takeOrder (t : Turnout) (body : List Byte) (s : State) : State :=
  match parseOrder body with
  | none => sendRefused t (firstByte body) 0 (ownReach s) 1 false s
  | some q =>
    match refusalReason t q s with
    | some reason => sendRefused t q.terminal 0 (ownReach s) reason false s
    | none => admitOrder t q s

/-! ## Shedding order, bumping and shedding (R82, R94) -/

/-- The place of a PROVISIONAL record in the shedding order: hold deadline, then tag. A larger key is walked first (R94). -/
def deadlineKey (o : OrderRec) : Nat :=
  match o.state with
  | .provisional d => d * 256 + o.tag
  | _ => 0

/-- The records of a class in shedding order: the PROVISIONAL ones, then the CONFIRMED and RUNNING ones (R94). -/
def shedClass (c : OrderClass) (table : List OrderRec) : List OrderRec :=
  (sortBy deadlineKey (table.filter fun o => o.cls == c && isProvisional o)).reverse
    ++ (sortBy sequenceKey (table.filter fun o => o.cls == c && !isProvisional o)).reverse

/-- The tags in shedding order (R94). -/
def shedOrder (table : List OrderRec) : List Nat :=
  (shedClass .normal table ++ shedClass .frost table).map (·.tag)

/-- A record covers a second of `a .. b - 1` at which a sum exceeds a limit. -/
def coversOver (o : OrderRec) (a b : Nat) (sum : Nat → Nat) (limit : Nat) (table : List OrderRec) : Bool :=
  someSecondOver (max o.start a) (min o.stop b) (orderStarts table) sum limit

/-- Bumping ends a candidate that covers a second of the window at which the general sum exceeds the limit (R82). -/
def bumpTag (a b limit : Nat) (s : State) (tag : Nat) : State :=
  match findTag tag s.orders.table with
  | none => s
  | some o =>
    if coversOver o a b (generalSum s.orders.table) limit s.orders.table then endOrder .bumped o s else s

/-- Bumping for a FROST record that has become CONFIRMED (R82). -/
def bump82 (f : OrderRec) (s : State) : State :=
  let tags := ((shedClass .normal s.orders.table).filter fun o => overlaps o.start o.stop f.start f.stop).map (·.tag)
  tags.foldl (bumpTag f.start f.stop s.clock.drawLimit) s

/-- A record covers a second from the present on at which a sum in which it is counted exceeds the limit (R94). -/
def shedDue (o : OrderRec) (limit : Nat) (s : State) : Bool :=
  let table := s.orders.table
  (inGeneral o && coversOver o (now s) o.stop (generalSum table) limit table)
    || (inFrost o && coversOver o (now s) o.stop (frostSum table) limit table)

/-- Shedding ends a record or passes it over (R94). -/
def shedTag (limit : Nat) (s : State) (tag : Nat) : State :=
  match findTag tag s.orders.table with
  | none => s
  | some o => if shedDue o limit s then endOrder .curtailed o s else s

/-- The draw limit lowered event (R94): the walk, then ORDERS SHED when a record was ended. -/
def shed (limit : Nat) (s : State) : State :=
  let s1 := (shedOrder s.orders.table).foldl (shedTag limit) s
  if s1.orders.table.length < s.orders.table.length then raise .ordersShed s1 else s1

/-! ## Confirmation and refusal (R81, R83) -/

/-- ORDER REPLY CONFIRMED (R81, R84). -/
def sendConfirmed (o : OrderRec) (s : State) : State :=
  sendNotice o.turnout (be 1 o.terminal ++ be 1 o.tag ++ be 1 1 ++ be 3 o.start ++ be 3 o.stop) (isFrost o.cls) s

/-- A PROVISIONAL record becomes CONFIRMED with the next sequence (R71, R81 steps 1 to 3). -/
def confirmRecord (tag : Nat) (u : OrderUnit) : OrderUnit :=
  let r := readySequence u
  setOrderState tag (.confirmed (r.confCounter + 1)) { r with confCounter := r.confCounter + 1 }

/-- A PROVISIONAL record is confirmed (R81). -/
def confirmOrder (o : OrderRec) (s : State) : State :=
  let s1 := { s with orders := confirmRecord o.tag s.orders }
  let s2 := if isFrost o.cls then bump82 o s1 else s1
  raiseDue (sendConfirmed o s2)

/-- The PROVISIONAL record of a tag. -/
def findProvisional (tag : Nat) (s : State) : Option OrderRec :=
  (findTag tag s.orders.table).filter isProvisional

/-- The order unit takes a CONFIRM (R81). -/
def takeConfirm (body : List Byte) (s : State) : State :=
  if body.length = 2 ∧ field body 0 1 = ownReach s then
    match findProvisional (field body 1 1) s with
    | some o => confirmOrder o s
    | none => countUnmatched s
  else countUnmatched s

/-- A PROVISIONAL record is removed by a REFUSE (R83). -/
def refuseOrder (o : OrderRec) (refusing reason : Nat) (s : State) : State :=
  sendRefused o.turnout o.terminal o.tag refusing reason (isFrost o.cls)
    { s with orders := dropOrder o.tag s.orders }

/-- The order unit takes a REFUSE (R83). -/
def takeRefuse (body : List Byte) (s : State) : State :=
  if body.length = 4 ∧ field body 0 1 = ownReach s then
    match findProvisional (field body 1 1) s with
    | some o => refuseOrder o (field body 2 1) (field body 3 1) s
    | none => countUnmatched s
  else countUnmatched s

/-! ## Cancel (R93) -/

/-- A record matches a cancel. -/
def cancelMatches (t : Turnout) (terminal account : Nat) (o : OrderRec) : Bool :=
  o.turnout == t && o.terminal == terminal && o.account == account

/-- The matching record with the earliest start (R93); of several with that start the one with the lowest tag (the model's
choice, log 39). -/
def cancelTarget (t : Turnout) (terminal account : Nat) (s : State) : Option OrderRec :=
  (sortBy (·.start) (s.orders.table.filter (cancelMatches t terminal account))).head?

/-- The order unit takes an ORDER CANCEL (R93). -/
def takeCancel (t : Turnout) (body : List Byte) (s : State) : State :=
  if body.length = 3 then
    match cancelTarget t (field body 0 1) (field body 1 2) s with
    | some o => endOrder .cancelled o s
    | none => sendRefused t (firstByte body) 0 (ownReach s) 16 false s
  else sendRefused t (firstByte body) 0 (ownReach s) 1 false s

/-! ## Time events (R85, R86, R90) -/

/-- The order unit with the first raised event taken. -/
def popOrderEvent (u : OrderUnit) : OrderUnit := { u with raised := u.raised.tail }

/-- ORDER REPLY LAPSED (R84, R85). -/
def sendLapsed (o : OrderRec) (s : State) : State :=
  sendNotice o.turnout (be 1 o.terminal ++ be 1 o.tag ++ be 1 3) (isFrost o.cls) s

/-- A PROVISIONAL record lapses (R85). -/
def lapse (o : OrderRec) (s : State) : State :=
  raise .orderLapsed (sendRelease o (now s) (sendLapsed o { s with orders := dropOrder o.tag s.orders }))

/-- The initial opening (R86): the rate's share of the gate maximum rate, rounded up, clipped to 1..1000. -/
def initialOpening (rate maxRate : Nat) : Nat := clipOpening ((rate * 1000 + maxRate - 1) / maxRate)

/-- The limit of the start check (R77, R86): for a FROST record of an account that is not frost eligible the NORMAL
limit applies. An account that no slot holds has none (log 28). -/
def startAllowed (o : OrderRec) (s : State) : Bool :=
  match findSlot s.tables.accounts o.account with
  | none => false
  | some i =>
    decide ((getAt s.metering.counters i).openVol + o.rate * (o.stop - now s)
      ≤ classLimit (getAt s.tables.accounts i) o.cls)

/-- The cause of the first start check that fails (R86). -/
def startFailure (o : OrderRec) (s : State) : Option EndCause :=
  if o.stop ≤ now s then some .completed
  else if !startAllowed o s then some .allotment
  else if !(getAt s.gates o.turnout).ready then some .lockedOut
  else if inFault (getAt s.gates o.turnout) then some .gateFault
  else none

/-- ORDER REPLY STARTED (R84, R86). -/
def sendStarted (o : OrderRec) (opening : Nat) (s : State) : State :=
  sendNotice o.turnout
    (be 1 o.terminal ++ be 1 o.tag ++ be 1 4 ++ be 3 o.start ++ be 3 o.stop ++ be 2 opening) (isFrost o.cls) s

/-- A record whose start checks pass becomes RUNNING (R86). -/
def runOrder (o : OrderRec) (sequence : Nat) (s : State) : State :=
  let opening := initialOpening o.rate (getAt s.tables.turnouts o.turnout).maxRate
  let orders := setOrderState o.tag (.running sequence 0 (startCharge o.account s)) s.orders
  let s1 := { s with orders := orders }
  raiseDue (sendStarted o opening (requestOpening o.turnout opening o.cls (enterStart o.account s1)))

/-- The start of a CONFIRMED record is reached (R86). -/
def startOrder (o : OrderRec) (s : State) : State :=
  match o.state with
  | .confirmed q =>
    match startFailure o s with
    | some cause => endOrder cause o s
    | none => runOrder o q s
  | _ => s

/-- The record that the first raised event of a kind concerns: the one of its tag, while it books that event. -/
def raisedRecord (k : OrderEventKind) (s : State) : Option OrderRec :=
  match s.orders.raised with
  | [] => none
  | e :: _ => if e.kind = k then (findTag e.tag s.orders.table).filter fun o => (bookedOrder o).1 == e else none

/-- The order unit takes the first raised event, when it is of the kind given (R57, R72). -/
def takeOrderEvent (k : OrderEventKind) (f : OrderRec → State → State) (s : State) : State :=
  match raisedRecord k s with
  | some o => f o { s with orders := popOrderEvent s.orders }
  | none => s

/-- HOLD_DEADLINE_REACHED (R85). -/
def execHoldDeadlineReached (s : State) : Host.Outcome State Fault Refusal :=
  .next (whileRunning (takeOrderEvent .holdDeadline lapse) s)

/-- START_REACHED (R86). -/
def execStartReached (s : State) : Host.Outcome State Fault Refusal :=
  .next (whileRunning (takeOrderEvent .startReached startOrder) s)

/-- END_REACHED (R90). -/
def execEndReached (s : State) : Host.Outcome State Fault Refusal :=
  .next (whileRunning (takeOrderEvent .endReached (endOrder .completed)) s)

end Sys2Proof.Machine
end

