-- ==== Sys2Proof/Machine/Carriage.lean ====
section
/-! DEFINITION. Machine/Carriage.lean: the carriage unit (05_carriage_reservations): passing frames and expiry. -/

namespace Sys2Proof.Machine

/-- The carriage list has 64 places (R97). -/
def carriagePlaces : Nat := 64

/-- A record has a key of origin reach and origin tag (R97). -/
def hasKey (reach tag : Nat) (r : CarriageRec) : Bool := r.originReach == reach && r.originTag == tag

/-- The record of a key. -/
def findCarriage (reach tag : Nat) (s : State) : Option CarriageRec := s.carriage.list.find? (hasKey reach tag)

/-- The order of the list (R97). -/
def carriageKey (r : CarriageRec) : Nat := r.originReach * 256 + r.originTag

/-- The carriage unit with the times of a key no longer booked (R57, R98). -/
def unbookCarriage (reach tag : Nat) (u : CarriageUnit) : CarriageUnit :=
  { u with raised := u.raised.filter fun e => !(e.originReach == reach && e.originTag == tag) }

/-- The carriage unit without the record of a key and without its booked times. -/
def dropCarriage (reach tag : Nat) (u : CarriageUnit) : CarriageUnit :=
  unbookCarriage reach tag { u with list := u.list.filter fun r => !hasKey reach tag r }

/-- The carriage unit with the record of a key changed and its earlier booked time no longer booked. -/
def changeCarriage (reach tag : Nat) (f : CarriageRec → CarriageRec) (u : CarriageUnit) : CarriageUnit :=
  unbookCarriage reach tag { u with list := u.list.map fun r => if hasKey reach tag r then f r else r }

/-- The record of a key leaves the list. -/
def removeCarriage (reach tag : Nat) (s : State) : State := { s with carriage := dropCarriage reach tag s.carriage }

/-- A frame with its body rewritten, its mark kept and its check computed afresh (R19, R102). -/
def rebody (body : List Byte) (f : Frame) : Frame := mkFrame f.dst f.src f.kind body f.marked

/-- The DEMAND in own inflow time (R102). -/
def ownWindow (s : State) (d : DemandBody) : DemandBody :=
  { d with start := shifted s d.start, stop := shifted s d.stop }

/-- The record that a DEMAND in own inflow time books (R104). -/
def bookedRecord (d : DemandBody) : CarriageRec where
  originReach := d.originReach
  originTag := d.tag
  cls := d.cls
  start := d.start
  stop := d.stop
  rate := d.rate
  state := .tentative d.holdDeadline

/-- A DEMAND is booked (R104). -/
def bookDemand (d : DemandBody) (s : State) : State :=
  raiseDue { s with carriage := { s.carriage with list := insertBy carriageKey (bookedRecord d) s.carriage.list } }

/-- The REFUSE sent in place of a DEMAND, and CARRIAGE REFUSED (R105). -/
def refuseDemand (d : DemandBody) (reason : Nat) (s : State) : State :=
  raise .carriageRefused
    (send ⟨d.originReach, 0⟩ Kind.refuse (be 1 d.originReach ++ be 1 d.tag ++ be 1 (ownReach s) ++ be 1 reason)
      (isFrost d.cls) s)

/-- The cases of R103. -/
inductive DemandCase where
  | refused (reason : Nat)
  | withheld
  | known
  | booked
  deriving DecidableEq, Repr

/-- The first case of R103 that applies to a DEMAND in own inflow time. -/
def demandCase (d : DemandBody) (s : State) : DemandCase :=
  if s.clock.status = .unset then .refused 2
  else if d.holdDeadline ≤ now s then .withheld
  else if (findCarriage d.originReach d.tag s).isSome then .known
  else if !fits d.rate d.start d.stop s then .refused 13
  else if carriagePlaces ≤ s.carriage.list.length then .refused 15
  else .booked

/-- A DEMAND passing up (R101..R105): the state, and the frame returned for forwarding. -/
def passDemand (f : Frame) (s : State) : State × Option Frame :=
  match parseDemand (ownReach s) f.body with
  | none => (countUnmatched s, some f)
  | some d =>
    let own := ownWindow s d
    match demandCase own s with
    | .refused reason => (refuseDemand own reason s, none)
    | .withheld => (countUnmatched s, none)
    | .known => (s, some (rebody (demandBytes own) f))
    | .booked => (bookDemand own s, some (rebody (demandBytes own) f))

/-- A TENTATIVE record becomes FIRM (R107). -/
def firmCarriage (reach tag : Nat) (s : State) : State :=
  raiseDue { s with carriage := changeCarriage reach tag (fun r => { r with state := .firm }) s.carriage }

/-- The TENTATIVE record of a key. -/
def findTentative (reach tag : Nat) (s : State) : Option CarriageRec :=
  (findCarriage reach tag s).filter fun r => match r.state with | .tentative _ => true | .firm => false

/-- A CONFIRM passing down (R107); it is always returned unchanged. -/
def passConfirm (f : Frame) (s : State) : State :=
  match parseKey (ownReach s) 2 f.body with
  | none => countUnmatched s
  | some (reach, tag) =>
    if (findTentative reach tag s).isSome then firmCarriage reach tag s else countUnmatched s

/-- A REFUSE passing down (R108); it is always returned unchanged. -/
def passRefuse (f : Frame) (s : State) : State :=
  match parseKey (ownReach s) 4 f.body with
  | none => countUnmatched s
  | some (reach, tag) =>
    if (findTentative reach tag s).isSome then removeCarriage reach tag s else countUnmatched s

/-- A FIRM window end set by a RELEASE and booked anew (R110). -/
def shortenCarriage (reach tag t : Nat) (s : State) : State :=
  raiseDue { s with carriage := changeCarriage reach tag (fun r => { r with stop := min r.stop t }) s.carriage }

/-- What a RELEASE with a shifted time does to the record of a key (R110). -/
def releaseRecord (reach tag t : Nat) (s : State) : State :=
  match findCarriage reach tag s with
  | none => countUnmatched s
  | some r =>
    match r.state with
    | .tentative _ => removeCarriage reach tag s
    | .firm => if r.start < t then shortenCarriage reach tag t s else removeCarriage reach tag s

/-- A RELEASE body (R88, R110). -/
def releaseBytes (reach tag t : Nat) : List Byte := be 1 reach ++ be 1 tag ++ be 3 t

/-- A RELEASE passing up (R110): the state, and the frame returned for forwarding. -/
def passRelease (f : Frame) (s : State) : State × Frame :=
  match parseKey (ownReach s) 5 f.body with
  | none => (countUnmatched s, f)
  | some (reach, tag) =>
    let t := shifted s (field f.body 2 3)
    (releaseRecord reach tag t s, rebody (releaseBytes reach tag t) f)

/-! ## Expiry (R112, R113) -/

/-- The carriage unit takes the first raised event, when it is of the kind given: the record leaves the list. -/
def takeCarriageEvent (k : CarriageEventKind) (s : State) : State :=
  match s.carriage.raised with
  | [] => s
  | e :: _ => if e.kind = k then removeCarriage e.originReach e.originTag s else s

/-- CARRIAGE_HOLD_DEADLINE_REACHED (R112). -/
def execCarriageHoldDeadlineReached (s : State) : Host.Outcome State Fault Refusal :=
  .next (whileRunning (takeCarriageEvent .holdDeadline) s)

/-- WINDOW_END_REACHED (R113). -/
def execWindowEndReached (s : State) : Host.Outcome State Fault Refusal :=
  .next (whileRunning (takeCarriageEvent .windowEnd) s)

end Sys2Proof.Machine
end

