-- ==== Sys2Proof/Machine/Clock.lean ====
section
/-! DEFINITION. Machine/Clock.lean: the district clock (03): ticks, wraps, TIME, the frost call, the draw limit. -/

namespace Sys2Proof.Machine

/-! ## Ticks and the period wrap (R55, R56) -/

/-- Run seconds stop at their maximum (R54, R55). -/
def runTop : Nat := 4294967295

/-- The re-base of one time (R56). -/
def rebase (len t : Nat) : Nat := t - len

/-- The re-base of an order state (R56, R70). -/
def rebaseState (len : Nat) : OrderState → OrderState
  | .provisional d => .provisional (rebase len d)
  | st => st

/-- The re-base of an order record (R56). -/
def rebaseOrder (len : Nat) (o : OrderRec) : OrderRec :=
  { o with start := rebase len o.start, stop := rebase len o.stop, state := rebaseState len o.state }

/-- The re-base of a carriage state (R98). -/
def rebaseCarriageState (len : Nat) : CarriageState → CarriageState
  | .tentative d => .tentative (rebase len d)
  | .firm => .firm

/-- The re-base of a carriage record (R98). -/
def rebaseCarriage (len : Nat) (r : CarriageRec) : CarriageRec :=
  { r with start := rebase len r.start, stop := rebase len r.stop, state := rebaseCarriageState len r.state }

/-- The clock record after a wrap (R56, R65). -/
def wrappedClock (len : Nat) (c : Clock) : Clock :=
  { c with
    seconds := c.seconds + 1 - len
    period := (c.period + 1) % 65536
    frost := c.frost.map fun w => ⟨rebase len w.start, rebase len w.stop⟩ }

/-- A period wrap (R56): the close of the ended period is raised, every booked time is re-based, at once, also while an
event raised earlier still waits for its unit (the model's choice, log 4). -/
def wrap (s : State) : State :=
  let len := s.tables.reach.periodLength
  { s with
    clock := wrappedClock len s.clock
    billing := { s.billing with raised := s.billing.raised ++ [s.clock.period] }
    orders := { s.orders with table := s.orders.table.map (rebaseOrder len) }
    carriage := { s.carriage with list := s.carriage.list.map (rebaseCarriage len) } }

/-- The period seconds rise by one or wrap (R55, R56). -/
def advance (s : State) : State :=
  if s.tables.reach.periodLength ≤ s.clock.seconds + 1 then wrap s
  else { s with clock := { s.clock with seconds := s.clock.seconds + 1 } }

/-- Run seconds rise by one (R55). -/
def countRun (s : State) : State := { s with clock := { s.clock with run := satAdd runTop s.clock.run 1 } }

/-- A tick (R55). -/
def tick (s : State) : State :=
  match s.clock.status with
  | .unset => countRun s
  | .set => raiseDue (advance (countRun s))

/-- TICK (R55). -/
def execTick (s : State) : Host.Outcome State Fault Refusal := .next (whileRunning tick s)

/-! ## TIME (R58..R63) -/

/-- A TIME is rejected (R58). -/
def rejectTime (s : State) : State := raise .timeRejected s

/-- The largest step that a SET clock accepts, in seconds (R61). -/
def timeStep : Nat := 120

/-- The clock passes to SET at a period and period seconds, and reaches what is due (R59, R62). -/
def setTime (period seconds : Nat) (s : State) : State :=
  raiseDue { s with clock := { s.clock with status := .set, period := period, seconds := seconds } }

/-- The catch-up close (R60) raises one period close event with the held period. -/
def catchUpClose (s : State) : State :=
  { s with billing := { s.billing with raised := s.billing.raised ++ [s.clock.period] } }

/-- How far a TIME's period number stands above the held one, modulo 65536 (R59). -/
def periodAhead (period held : Nat) : Nat := (period + 65536 - held) % 65536

/-- A TIME taken in UNSET (R59, R60). -/
def timeWhileUnset (period seconds : Nat) (s : State) : State :=
  let ahead := periodAhead period s.clock.period
  if ahead = 0 then setTime period seconds s
  else if ahead ≤ 32767 then setTime period seconds (catchUpClose s)
  else rejectTime s

/-- The step of a TIME is within 120 s (R61). -/
def stepOk (new old : Nat) : Bool := decide (new ≤ old + timeStep) && decide (old ≤ new + timeStep)

/-- A TIME taken in SET (R61..R63). -/
def timeWhileSet (period seconds : Nat) (s : State) : State :=
  if period = s.clock.period ∧ stepOk seconds s.clock.seconds = true then
    if s.clock.seconds < seconds then setTime period seconds s
    else { s with clock := { s.clock with seconds := seconds } }
  else rejectTime s

/-- A well-formed TIME (R58). -/
def wellFormedTime (period seconds : Nat) (s : State) : State :=
  if s.tables.reach.periodLength ≤ seconds then rejectTime s
  else
    match s.clock.status with
    | .unset => timeWhileUnset period seconds s
    | .set => timeWhileSet period seconds s

/-- The clock takes a TIME (R58). -/
def takeTime (body : List Byte) (s : State) : State :=
  if body.length = 5 then wellFormedTime (field body 0 2) (field body 2 3) s
  else rejectTime (countRefusedSource .u s)

/-! ## The frost call (R65, R66) -/

/-- The frost call record is set; a time booked before is no longer booked, and a window end that is not after the
present is reached at once (R57, R65, R66). -/
def setFrost (w : Option FrostWindow) (s : State) : State :=
  raiseDue { s with clock := { s.clock with frost := w, frostEndRaised := false } }

/-- The clock takes a FROST CALL (R65). -/
def takeFrostCall (body : List Byte) (s : State) : State :=
  let a := field body 0 1
  let start := field body 1 3
  let stop := field body 4 3
  if body.length ≠ 7 ∨ 1 < a ∨ (a = 1 ∧ stop ≤ start) then countRefusedSource .u s
  else if a = 1 then setFrost (some ⟨start, stop⟩) s
  else setFrost none s

/-- The frost window end is reached: the record becomes absent (R66). -/
def frostEnd (s : State) : State :=
  if s.clock.frostEndRaised then { s with clock := { s.clock with frost := none, frostEndRaised := false } } else s

/-- FROST_WINDOW_END_REACHED (R66). -/
def execFrostWindowEndReached (s : State) : Host.Outcome State Fault Refusal := .next (whileRunning frostEnd s)

/-! ## Curtailment and the draw limit (R67, R68) -/

/-- The local draw limit of a capacity and a curtail limit (R68). -/
def drawLimitOf (capacity : Nat) (limit : Option Nat) : Nat :=
  match limit with
  | none => capacity
  | some c => min capacity c

/-- The local draw limit is recomputed; a fall is handed to the order unit (R68, R94). -/
def recomputeDraw (s : State) : State :=
  let limit := drawLimitOf s.tables.reach.localDraw s.clock.curtail
  let s1 := { s with clock := { s.clock with drawLimit := limit } }
  if limit < s.clock.drawLimit then shed limit s1 else s1

/-- The limit of the first pair that names a reach, of a list of `k` pairs (R67). -/
def firstPair (n : Nat) : Nat → List Byte → Option Nat
  | 0, _ => none
  | k + 1, b => if field b 0 1 = n then some (field b 1 2) else firstPair n k (b.drop 3)

/-- The curtail limit that a pair's limit sets: FFFFh lifts it (R67). -/
def curtailOf (limit : Nat) : Option Nat := if limit = 65535 then none else some limit

/-- A well-formed CURTAIL has 1 to 12 pairs (R67). -/
def curtailOk (b : List Byte) : Bool := decide (b.length % 3 = 0) && within 3 36 b.length

/-- The clock takes a CURTAIL (R67). -/
def takeCurtail (body : List Byte) (s : State) : State :=
  if curtailOk body then
    match firstPair (ownReach s) (body.length / 3) body with
    | none => s
    | some limit => recomputeDraw { s with clock := { s.clock with curtail := curtailOf limit } }
  else countRefusedSource .u s

end Sys2Proof.Machine
end

