-- ==== Sys2Proof/Machine/Line.lean ====
section
/-! DEFINITION. Machine/Line.lean: the line ports (01_the_field_line): classifier, receiver, acceptance, holding,
transmission and clash. -/

namespace Sys2Proof.Machine

/-- The port unit of a port in the state. -/
def unitAt (p : Port) (s : State) : PortUnit := portOf p s.comms

/-- The state with one port unit changed. -/
def mapUnit (p : Port) (f : PortUnit → PortUnit) (s : State) : State :=
  { s with comms := setPort p (f (portOf p s.comms)) s.comms }

/-- The capture counter's maximum (R2). -/
def counterTop : Nat := 65535

/-- The port is transmitting. -/
def transmitting (x : PortUnit) : Bool := x.inFlight.isSome

/-! ## Classifier (R3) -/

/-- A width lies in a window, bounds included. -/
def inWindow (w : Window) (n : Nat) : Bool := decide (w.lo ≤ n) && decide (n ≤ w.hi)

/-- The symbol whose window contains a width (R3). -/
def classify (t : LineTiming) (width : Nat) : Symbol :=
  if inWindow t.lead width then .lead
  else if inWindow t.mark width then .mark
  else if inWindow t.one width then .one
  else if inWindow t.zero width then .zero
  else .unclassified

/-! ## Receiver (R5..R9) -/

/-- What a symbol or an end gap does to the receiver, besides its next state. -/
inductive ReceiverError where
  | symbol
  | framing
  deriving DecidableEq, Repr

/-- The greatest frame is 44 bytes; the forty-fifth byte is overlong (R7). -/
def frameTop : Nat := 44

/-- A data bit in FRAME (R6, R7). -/
def takeBit (bytes : List Byte) (bits : List Bool) (mark b : Bool) : Receiver × Option ReceiverError :=
  if bits.length < 7 then (.frame bytes (bits ++ [b]) mark, none)
  else if bytes.length < frameTop then (.frame (bytes ++ [byteOfBits (bits ++ [b])]) [] mark, none)
  else (.discard, some .framing)

/-- The receiver is given a symbol (R5, R6, R7, R9). -/
def receive (r : Receiver) (y : Symbol) : Receiver × Option ReceiverError :=
  match r, y with
  | .idle, .lead => (.frame [] [] false, none)
  | .idle, _ => (.discard, some .symbol)
  | .frame bytes bits mark, .one => takeBit bytes bits mark true
  | .frame bytes bits mark, .zero => takeBit bytes bits mark false
  | .frame bytes bits mark, .mark =>
    if bytes.isEmpty && bits.isEmpty && !mark then (.frame [] [] true, none) else (.discard, some .symbol)
  | .frame _ _ _, .lead => (.discard, some .symbol)
  | .frame _ _ _, .unclassified => (.discard, some .symbol)
  | .discard, _ => (.discard, none)

/-- A symbol or framing error is counted and raises LINE FAULT (R28, R29). -/
def countError (p : Port) (e : ReceiverError) (s : State) : State :=
  match e with
  | .symbol => raise .lineFault (count p (fun c => { c with symbolErrors := bump c.symbolErrors }) s)
  | .framing => raise .lineFault (count p (fun c => { c with framing := bump c.framing }) s)

/-- A symbol is given to the receiver of a port. -/
def giveSymbol (p : Port) (y : Symbol) (s : State) : State :=
  let r := receive (unitAt p s).receiver y
  let s1 := mapUnit p (fun x => { x with receiver := r.1 }) s
  match r.2 with
  | none => s1
  | some e => countError p e s1

/-! ## Acceptance and holding (R11, R13) -/

/-- The receive holding has two places (R13). -/
def holdingPlaces : Nat := 2

/-- A completed frame: acceptance, then the receive holding (R11, R13, R29). -/
def offerFrame (p : Port) (bytes : List Byte) (mark : Bool) (s : State) : State :=
  match acceptFrame bytes mark with
  | none => raise .lineFault (count p (fun c => { c with checkErrors := bump c.checkErrors }) s)
  | some f =>
    if (unitAt p s).holding.length < holdingPlaces then mapUnit p (fun x => { x with holding := x.holding ++ [f] }) s
    else raise .lineFault (count p (fun c => { c with overruns := bump c.overruns }) s)

/-- The end-gap event of a port's receiver (R5, R8, R9). -/
def endGapEvent (p : Port) (s : State) : State :=
  let s1 := mapUnit p (fun x => { x with gapRaised := true, receiver := .idle }) s
  match (unitAt p s).receiver with
  | .frame bytes bits mark => if bits.isEmpty then offerFrame p bytes mark s1 else countError p .framing s1
  | _ => s1

/-- The quiet time of a port is seen to stand at `quiet` units: the end-gap event is raised once per inactive
interval, when the quiet time has reached the end gap (R2, R4). -/
def quietReaches (p : Port) (quiet : Nat) (s : State) : State :=
  let x := unitAt p s
  let n := max x.counter (min quiet counterTop)
  let s1 := mapUnit p (fun x => { x with counter := n }) s
  if !x.gapRaised && decide (s.tables.timing.endGap ≤ n) then endGapEvent p s1 else s1

/-- The quiet time is counted: the line is inactive and the port is not transmitting. -/
def isQuiet (x : PortUnit) : Bool := !x.active && !transmitting x

/-! ## Transmission (R24..R27) -/

/-- The midpoint of a window, rounded down (R25). -/
def midpoint (w : Window) : Nat := (w.lo + w.hi) / 2

/-- A transmission begun under the line timing of the moment (R25). -/
def beginTransmission (t : LineTiming) (f : Frame) : Transmission :=
  ⟨f, midpoint t.lead, midpoint t.mark, midpoint t.one, midpoint t.zero⟩

/-- The pulse widths of a transmission in order, each followed by an inactive interval of 100 units (R25). -/
def pulses (x : Transmission) : List Nat :=
  x.leadWidth :: (if x.frame.marked then [x.markWidth] else [])
    ++ ((frameBytes x.frame).flatMap byteBits).map fun b => if b then x.oneWidth else x.zeroWidth

/-- The inactive interval after each pulse, in units of 4 µs (R25). -/
def pulseGap : Nat := 100

/-- The extra quiet time of an unmarked head: 2 ms (R24). -/
def unmarkedWait : Nat := 500

/-- The clash wait in units of 4 µs: (1 + own reach number modulo 8) × 500 µs, or 500 µs unassigned (R27). -/
def clashUnits (n : Nat) : Nat := (1 + n % 8) * 125

/-- The quiet time that the head of a queue needs (R24, R27). -/
def requiredQuiet (s : State) (x : PortUnit) (head : Frame) : Nat :=
  s.tables.timing.endGap + (if head.marked then 0 else unmarkedWait)
    + (if x.clashWait then clashUnits (ownReach s) else 0)

/-- The port unit after it began transmitting the head of its queue. -/
def startedUnit (t : LineTiming) (head : Frame) (rest : List Frame) (x : PortUnit) : PortUnit :=
  { x with
    queue := rest
    inFlight := some (beginTransmission t head)
    clashWait := false
    counter := 0
    active := true
    gapRaised := false }

/-- The gate unit places its next waiting GATE SET when a transmission begins on the D port (R131). -/
def afterStart (p : Port) (s : State) : State :=
  match p with
  | .u => s
  | .d => placeWaiting s

/-- The port begins transmitting when R24 allows it. -/
def tryTransmit (p : Port) (s : State) : State :=
  let x := unitAt p s
  match x.queue with
  | [] => s
  | head :: rest =>
    if requiredQuiet s x head ≤ x.counter then
      afterStart p (mapUnit p (startedUnit s.tables.timing head rest) s)
    else s

/-! ## The commands of a port -/

/-- TRANSMIT_START: the port finds the quiet time at `quiet` units (R24). -/
def transmitStart (p : Port) (quiet : Nat) (s : State) : State :=
  if isQuiet (unitAt p s) then tryTransmit p (quietReaches p quiet s) else s

/-- TRANSMIT_END (R25): the frame is gone; the quiet time has counted the interval after the last bit. -/
def transmitEnd (p : Port) (s : State) : State :=
  if transmitting (unitAt p s) then
    mapUnit p (fun x => { x with inFlight := none, counter := pulseGap, active := false, gapRaised := false }) s
  else s

/-- TALKER_CLASH (R26, R27). -/
def talkerClash (p : Port) (s : State) : State :=
  if transmitting (unitAt p s) then
    raise .lineFault
      (mapUnit p (fun x => { x with
          inFlight := none
          receiver := .discard
          clashWait := true
          counter := 0
          active := true
          gapRaised := false
          counts := { x.counts with clashes := bump x.counts.clashes } }) s)
  else s

/-- END_GAP (R4). -/
def endGap (p : Port) (s : State) : State :=
  if isQuiet (unitAt p s) then quietReaches p s.tables.timing.endGap s else s

/-- CAPTURE_SATURATION (R2, R3): the pulse is classified as unclassified at the moment of saturation. -/
def captureSaturation (p : Port) (s : State) : State :=
  let x := unitAt p s
  if x.active && !transmitting x && decide (x.counter < counterTop) then
    giveSymbol p .unclassified (mapUnit p (fun x => { x with counter := counterTop }) s)
  else s

/-- INACTIVE_EDGE (R2, R3): the width is classified unless the pulse was classified at saturation or no active
pulse was measured (log 26); the quiet time starts. -/
def inactiveEdge (p : Port) (width : Nat) (s : State) : State :=
  let x := unitAt p s
  if transmitting x then s
  else
    let s1 := mapUnit p (fun x => { x with counter := 0, active := false, gapRaised := false }) s
    if x.active && decide (x.counter < counterTop) then giveSymbol p (classify s.tables.timing width) s1 else s1

/-- ACTIVE_EDGE (R2, R4, R24): the counter restarts; the quiet interval ends before any end gap not yet reached. An
edge while the port's own output is active is not detected (R26). -/
def activeEdge (p : Port) (s : State) : State :=
  if transmitting (unitAt p s) then s
  else mapUnit p (fun x => { x with counter := 0, active := true, gapRaised := false }) s

/-- An accepted LINE TIMING write raises the end-gap event of an interval whose quiet time already stands at the new
end gap (R4). -/
def retimePort (p : Port) (s : State) : State := if isQuiet (unitAt p s) then quietReaches p 0 s else s

/-- A port unit after it stopped at the passage to BACKUP (R30): the transmission is cut off. -/
def stoppedUnit (x : PortUnit) : PortUnit := { x with inFlight := none }

/-- END_GAP (R4). -/
def execEndGap (p : Port) (s : State) : Host.Outcome State Fault Refusal := .next (whileRunning (endGap p) s)

/-- CAPTURE_SATURATION (R2, R3). -/
def execCaptureSaturation (p : Port) (s : State) : Host.Outcome State Fault Refusal :=
  .next (whileRunning (captureSaturation p) s)

/-- TRANSMIT_START (R24). -/
def execTransmitStart (p : Port) (quiet : Nat) (s : State) : Host.Outcome State Fault Refusal :=
  .next (whileRunning (transmitStart p quiet) s)

/-- TRANSMIT_END (R25). -/
def execTransmitEnd (p : Port) (s : State) : Host.Outcome State Fault Refusal :=
  .next (whileRunning (transmitEnd p) s)

/-- TALKER_CLASH (R26). -/
def execTalkerClash (p : Port) (s : State) : Host.Outcome State Fault Refusal :=
  .next (whileRunning (talkerClash p) s)

/-- INACTIVE_EDGE (R2, R3). -/
def execInactiveEdge (p : Port) (width : Nat) (s : State) : Host.Outcome State Fault Refusal :=
  .next (whileRunning (inactiveEdge p width) s)

/-- ACTIVE_EDGE (R2). -/
def execActiveEdge (p : Port) (s : State) : Host.Outcome State Fault Refusal := .next (whileRunning (activeEdge p) s)

end Sys2Proof.Machine
end

