-- ==== Sys2Proof/Machine/Supply.lean ====
section
/-! DEFINITION. Machine/Supply.lean: the supply monitor, the stop in BACKUP and the end of loading (10 sections 10.3,
10.4). -/

namespace Sys2Proof.Machine

/-- The return to NORMAL lies 0.3 V above the warning level (R182). -/
def warnReturn : Nat := 300

/-- The levels of BACKUP, restart and working memory retention, in millivolts (R190). -/
def backupLevel : Nat := 9600
def restartLevel : Nat := 10200
def retentionLevel : Nat := 6000

/-- The warning level of the REACH table as it stands (R182). -/
def warnNow (s : State) : Nat := warnLevel s.tables.reach.warnChoice

/-- The supply stands at a level. -/
def setLevel (mv : Nat) (s : State) : State := { s with supply := { s.supply with level := mv } }

/-- The supply status changes. -/
def setStatus (st : SupplyStatus) (s : State) : State := { s with supply := { s.supply with status := st } }

/-! ## The warning level (R182, R183) -/

/-- The passage from NORMAL to LOW (R183). While the part loads it sets the status alone: loading does not write the
store (R186), and the flag and the snapshot come at its end (R188, log 30). -/
def passToLow (s : State) : State :=
  if s.loading.isSome then setStatus .low s else requestSnapshot (raise .supplyLow (setStatus .low s))

/-- The passage to LOW, when the status is NORMAL and the supply stands below the warning level (R182). -/
def fallCheck (s : State) : State :=
  if s.supply.status = .normal ∧ s.supply.level < warnNow s then passToLow s else s

/-- The passage to NORMAL, when the status is LOW and the supply stands above the warning level + 0.3 V (R182). -/
def riseCheck (s : State) : State :=
  if s.supply.status = .low ∧ warnNow s + warnReturn < s.supply.level then setStatus .normal s else s

/-- The comparison with the warning level: at a move of the supply, and at once when a write changes the choice (R182,
log 8). -/
def compareSupply (s : State) : State := riseCheck (fallCheck s)

/-! ## BACKUP and the working memory (R184, R185) -/

/-- The part stops (R30, R184, R189): both ports stop, the operation in flight is cut off, a waiting snapshot is
discarded, a wipe is not resumed, a loading is abandoned. -/
def stopPart (s : State) : State :=
  { s with
    comms := { s.comms with u := stoppedUnit s.comms.u, d := stoppedUnit s.comms.d }
    store := { s.store with op := none, waiting := false, wipe := none, wipeFault := false }
    supply := { s.supply with status := .backup, relayClosed := true }
    loading := none }

/-- The passage to BACKUP, when the supply stands below 9.6 V (R182, R184). -/
def backupCheck (s : State) : State :=
  if s.supply.status ≠ .backup ∧ s.supply.level < backupLevel then stopPart s else s

/-- The loss of the working memory, and with it of the retention mark, when the supply of a stopped part does not stay
above 6.0 V (R185, R190, log 32). -/
def retentionCheck (s : State) : State :=
  if s.supply.status = .backup ∧ s.supply.level ≤ retentionLevel then
    { s with supply := { s.supply with retention := false } }
  else s

/-! ## Restart (R185) -/

/-- The kind of the restart that a rise above 10.2 V begins (R185). -/
def restartKind (retention : Bool) : RestartKind := if retention then .supplyRecovery else .powerOn

/-- The restart of a stopped part, when the supply stands above 10.2 V (R184, R185). -/
def restartCheck (s : State) : State :=
  if s.supply.status = .backup ∧ restartLevel < s.supply.level then
    restartReading (restartKind s.supply.retention) s
  else s

/-- The supply moves to a level: every passage across the monitor's levels that the move makes, each in its turn. A fall
past the warning level to below 9.6 V goes through LOW, and a fall to 6.0 V loses the working memory, whichever supply
command brings it (R182 to R185, log 33). -/
def supplyMoves (mv : Nat) (s : State) : State :=
  restartCheck (retentionCheck (backupCheck (compareSupply (setLevel mv s))))

/-- SUPPLY_LOW (R183). -/
def execSupplyLow (mv : Nat) (s : State) : Host.Outcome State Fault Refusal := .next (supplyMoves mv s)

/-- SUPPLY_NORMAL (R182). -/
def execSupplyNormal (mv : Nat) (s : State) : Host.Outcome State Fault Refusal := .next (supplyMoves mv s)

/-- SUPPLY_BACKUP (R184). -/
def execSupplyBackup (mv : Nat) (s : State) : Host.Outcome State Fault Refusal := .next (supplyMoves mv s)

/-- WORKING_MEMORY_LOSS (R185). -/
def execWorkingMemoryLoss (mv : Nat) (s : State) : Host.Outcome State Fault Refusal := .next (supplyMoves mv s)

/-- SUPPLY_RESTART (R185). -/
def execSupplyRestart (mv : Nat) (s : State) : Host.Outcome State Fault Refusal := .next (supplyMoves mv s)

/-! ## End of loading (R188) -/

/-- The management unit at the end of loading (R53, R188 item 1): the restart record, the flags cleared, then the
flags of the end of loading in ascending order. The supply is compared anew with the loaded warning level: below it the
passage to LOW is made, else the status is NORMAL (R188, log 30). -/
def endLoadingMgmt (l : Loading) (s : State) : State :=
  let s1 := { s with
    mgmt := { restart := l.record }
    comms := { s.comms with flags := 0 }
    supply := { s.supply with status := .normal }
    loading := none }
  let s2 := fallCheck s1
  let s3 := if l.storeFault then raise .storeFault s2 else s2
  raise .restarted s3

/-- The supply monitor at the end of loading: the retention mark is set and the bypass relay opens (R185, R188). -/
def openRelay (s : State) : State := { s with supply := { s.supply with retention := true, relayClosed := false } }

/-- The end of loading in the order of R188. -/
def endLoading (l : Loading) (s : State) : State := openRelay (startScan (startGates (endLoadingMgmt l s)))

/-- Loading, when one is in progress, ends (R188). -/
def finishLoading (s : State) : State :=
  match s.loading with
  | none => s
  | some l => endLoading l s

/-- LOADING_COMPLETE (R188). -/
def execLoadingComplete (s : State) : Host.Outcome State Fault Refusal := .next (finishLoading s)

end Sys2Proof.Machine
end

