-- ==== Sys2Proof/Machine/Management.lean ====
section
/-! DEFINITION. Machine/Management.lean: the management unit (02): requests, replies, table writes, reads, commands, and
the STORE COMMIT and BILL READ that it passes on (R175, R176, R181). -/

namespace Sys2Proof.Machine

/-! ## Replies (R31..R33) -/

/-- The results of MGMT REPLY (R33). -/
abbrev Result.done : Nat := 0
abbrev Result.accepted : Nat := 1
abbrev Result.refused : Nat := 2
abbrev Result.busy : Nat := 3
abbrev Result.empty : Nat := 5

/-- The reasons of a refusal (R33). -/
abbrev Reason.malformed : Nat := 1
abbrev Reason.noSuchTable : Nat := 2
abbrev Reason.noSuchEntry : Nat := 3
abbrev Reason.range : Nat := 4
abbrev Reason.windowsOverlap : Nat := 5
abbrev Reason.ratingOrder : Nat := 6
abbrev Reason.thresholdOrder : Nat := 7
abbrev Reason.duplicateAccount : Nat := 8
abbrev Reason.accountInUse : Nat := 9
abbrev Reason.reachInUse : Nat := 10
abbrev Reason.carriageInUse : Nat := 11
abbrev Reason.drawInUse : Nat := 12
abbrev Reason.periodPassed : Nat := 13
abbrev Reason.notPresent : Nat := 14
abbrev Reason.noSuchOrder : Nat := 15
abbrev Reason.notEmpty : Nat := 16

/-- The request number of a body, 0 of an empty one (R31). -/
def requestNumber (body : List Byte) : Byte := body.headD 0

/-- The body of MGMT REPLY (R33). -/
def mgmtReplyBody (request : Byte) (kind result : Nat) (fourth : List Byte) : List Byte :=
  [request] ++ be 1 kind ++ be 1 result ++ fourth

/-- The first reply of a request is placed and stored (R31, R32). -/
def answer (request : Byte) (kind replyKind : Nat) (body : List Byte) (s : State) : State :=
  let f := originate office replyKind body false s
  place .u f { s with mgmt := { s.mgmt with lastReply := some ⟨request, kind, f⟩ } }

/-- A MGMT REPLY that is stored. -/
def reply (request : Byte) (kind result : Nat) (fourth : List Byte) (s : State) : State :=
  answer request kind Kind.mgmtReply (mgmtReplyBody request kind result fourth) s

/-- MGMT REPLY REFUSED with its reason (R33). -/
def refuse (request : Byte) (kind reason : Nat) (s : State) : State :=
  reply request kind Result.refused (be 1 reason) s

/-- MGMT REPLY DONE. -/
def done (request : Byte) (kind : Nat) (s : State) : State := reply request kind Result.done [] s

/-- A BUSY reply is placed and not stored (R32). -/
def busy (request : Byte) (kind : Nat) (fourth : List Byte) (s : State) : State :=
  sendOffice Kind.mgmtReply (mgmtReplyBody request kind Result.busy fourth) false s

/-- The stored reply is placed afresh (R32), from the source of the moment (R31, log 14). -/
def resend (r : LastReply) (s : State) : State := sendOffice r.frame.kind r.frame.body false s

/-! ## REACH (R35, R36) -/

/-- The first test of R35 that fails. -/
def reachConflict (r : ReachTable) (s : State) : Option Nat :=
  let held := s.tables.reach
  let anyRecord := !s.orders.table.isEmpty || !s.carriage.list.isEmpty
  if (r.number ≠ held.number ∨ r.travelLag ≠ held.travelLag) ∧ anyRecord = true then some Reason.reachInUse
  else if s.clock.status = .set ∧ r.periodLength ≤ s.clock.seconds then some Reason.periodPassed
  else if carriageLaw r.capacity r.tailMin s = false then some Reason.carriageInUse
  else if drawLaw (drawLimitOf r.localDraw s.clock.curtail) s = false then some Reason.drawInUse
  else none

/-- The supply monitor takes a changed warning level choice (R36, R182). -/
def takeWarnChoice (old new : Nat) (s : State) : State := if old = new then s else compareSupply s

/-- An accepted REACH write (R36). -/
def acceptReach (r : ReachTable) (s : State) : State :=
  takeWarnChoice s.tables.reach.warnChoice r.warnChoice
    (recomputeDraw { s with tables := { s.tables with reach := r } })

/-- A REACH entry is tested and written. -/
def writeReach (b : List Byte) (s : State) : Except Nat State :=
  match parseReach b with
  | none => .error Reason.range
  | some r =>
    match reachConflict r s with
    | some reason => .error reason
    | none => .ok (acceptReach r s)

/-! ## TURNOUTS (R37, R95, R130) -/

/-- The records of a disabled turnout end (R95). -/
def endTurnout (t : Turnout) (s : State) : State :=
  endTags .disabled (tagsWhere (fun o => o.turnout == t) s) s

/-- An accepted TURNOUTS write (R37). -/
def acceptTurnout (t : Turnout) (e : TurnoutEntry) (s : State) : State :=
  let s1 := { s with tables := { s.tables with turnouts := putAt s.tables.turnouts t e } }
  checkCommand t (if (getAt s.tables.turnouts t).enabled && !e.enabled then endTurnout t s1 else s1)

/-- A TURNOUTS entry is tested and written. -/
def writeTurnout (entry : Nat) (b : List Byte) (s : State) : Except Nat State :=
  match turnoutOf entry, parseTurnout b with
  | some t, some e => .ok (acceptTurnout t e s)
  | _, _ => .error Reason.range

/-! ## RATING (R38) -/

/-- The RATING entry of a number. -/
def ratingEntry (entry : Nat) : Fin 8 := Fin.ofNat 8 entry

/-- A RATING entry is tested on the whole curve and written (R38). -/
def writeRating (entry : Nat) (b : List Byte) (s : State) : Except Nat State :=
  match parseHalf b with
  | none => .error Reason.range
  | some h =>
    let rating := putAt s.tables.rating (ratingEntry entry) h
    if curveOrdered (curvePoints rating (Fin.ofNat 4 (entry / 2))) then
      .ok { s with tables := { s.tables with rating := rating } }
    else .error Reason.ratingOrder

/-! ## ACCOUNTS (R39, R40, R156) -/

/-- The slot of an ACCOUNTS entry number 1..64. -/
def slotOf (entry : Nat) : Fin 64 := Fin.ofNat 64 (entry - 1)

/-- Another slot holds an account number (R39). -/
def heldElsewhere (i : Fin 64) (number : Nat) (s : State) : Bool :=
  (List.finRange 64).any fun j => decide (j ≠ i) && (getAt s.tables.accounts j).number == number

/-- A slot's account has a nonzero open counter; VOID is no counter (R39, R148, log 21). -/
def countersInUse (c : Counters) : Bool := { c with void := false } != ({} : Counters)

/-- The first test of R39 that fails. -/
def accountConflict (i : Fin 64) (a : AccountEntry) (s : State) : Option Nat :=
  let held := (getAt s.tables.accounts i).number
  if a.number ≠ 0 ∧ heldElsewhere i a.number s = true then some Reason.duplicateAccount
  else if held ≠ 0 ∧ held ≠ a.number
      ∧ (countersInUse (getAt s.metering.counters i) || s.orders.table.any fun o => o.account == held) = true then
    some Reason.accountInUse
  else none

/-- The entry that a write stores: a write of account number 0 stores factory values (R39). -/
def storedAccount (a : AccountEntry) : AccountEntry := if a.number = 0 then {} else a

/-- A slot's counters after a write of its account number (R39). A renumbered slot has no nonzero counter; what its
VOID becomes when it is set is free (log 21). -/
def writtenCounters (held new draw : Nat) (c : Counters) : Counters :=
  if held = 0 ∨ new = 0 then {}
  else if held = new then c
  else { c with void := c.void && Config.freeVoid draw }

/-- A free value is drawn when a slot whose VOID is set is renumbered (log 21). -/
def renumberDraws (held new : Nat) (c : Counters) : Nat :=
  if held ≠ 0 ∧ new ≠ 0 ∧ held ≠ new ∧ c.void = true then 1 else 0

/-- The turnouts that a write takes out of the permitted set (R40). -/
def removedTurnouts (old new : AccountEntry) : BitVec 16 := old.permitted &&& ~~~new.permitted

/-- A write that keeps its account number ends a record (R40, R95). -/
def disabledBy (old new : AccountEntry) (o : OrderRec) : Bool :=
  o.account == old.number && ((old.active && !new.active) || permits (removedTurnouts old new) o.turnout)

/-- A write lowers the allotment or the overdraft allowance (R40, R156). -/
def lowersLimit (old new : AccountEntry) : Bool :=
  decide (new.allotment < old.allotment) || decide (new.overdraft < old.overdraft)

/-- What a write that keeps its account number hands on (R40): first the DISABLED ends (R95), then the allotment test of a
lowered limit (R156). The spec does not order the two; in the model's order a record due for both ends DISABLED (log
17). -/
def keepAccount (i : Fin 64) (old new : AccountEntry) (s : State) : State :=
  let s1 := endTags .disabled (tagsWhere (disabledBy old new) s) s
  if lowersLimit old new then allotmentAtWrite i s1 else s1

/-- An accepted ACCOUNTS write (R39, R40). -/
def acceptAccount (i : Fin 64) (a : AccountEntry) (s : State) : State :=
  let old := getAt s.tables.accounts i
  let c := getAt s.metering.counters i
  let s1 := { s with
    tables := { s.tables with accounts := putAt s.tables.accounts i (storedAccount a) }
    metering := { s.metering with
      counters := putAt s.metering.counters i (writtenCounters old.number a.number s.free c) }
    free := s.free + renumberDraws old.number a.number c }
  if old.number ≠ 0 ∧ old.number = a.number then keepAccount i old a s1 else s1

/-- An ACCOUNTS entry is tested and written. -/
def writeAccount (entry : Nat) (b : List Byte) (s : State) : Except Nat State :=
  match parseAccount b with
  | none => .error Reason.range
  | some a =>
    match accountConflict (slotOf entry) a s with
    | some reason => .error reason
    | none => .ok (acceptAccount (slotOf entry) a s)

/-! ## TARIFF, LINE TIMING, SCAN, ALERT ENABLES (R41..R43) -/

/-- Tier thresholds do not fall (R41). -/
def thresholdsOrdered (t : TariffEntry) : Bool :=
  decide (t.threshold2 ≤ t.threshold3) && decide (t.threshold3 ≤ t.threshold4)

/-- A TARIFF entry is tested and written (R41, R167). -/
def writeTariff (entry : Nat) (b : List Byte) (s : State) : Except Nat State :=
  match parseTariff b with
  | none => .error Reason.range
  | some t =>
    if thresholdsOrdered t then .ok { s with billing := writeTariffEntry (Fin.ofNat 4 entry) t s.billing }
    else .error Reason.thresholdOrder

/-- An accepted LINE TIMING write (R4, R42). The U port's end gap comes before the D port's (the model's choice, log 17). -/
def acceptTiming (t : LineTiming) (s : State) : State :=
  retimePort .d (retimePort .u { s with tables := { s.tables with timing := t } })

/-- A LINE TIMING entry is tested and written (R42). -/
def writeTiming (b : List Byte) (s : State) : Except Nat State :=
  match parseTiming b with
  | none => .error Reason.range
  | some t => if timingApart t then .ok (acceptTiming t s) else .error Reason.windowsOverlap

/-- A SCAN entry is tested and written (R43). -/
def writeScan (b : List Byte) (s : State) : Except Nat State :=
  match parseScan b with
  | none => .error Reason.range
  | some t => .ok { s with tables := { s.tables with scan := t } }

/-- An ALERT ENABLES entry is written (R43). -/
def writeEnables (b : List Byte) (s : State) : State :=
  { s with tables := { s.tables with enables := readEnables b } }

/-! ## TABLE WRITE (R34) -/

/-- The entry size of a table (section 2.2). -/
def entrySize (code : Nat) : Nat :=
  match code with
  | 1 => 22
  | 2 => 6
  | 3 => 24
  | 4 => 13
  | 5 => 30
  | 6 => 21
  | 7 => 6
  | _ => 2

/-- A table code (section 2.1). -/
def isTable (code : Nat) : Bool := within 1 8 code

/-- An entry number lies within a table's entries (section 2.2). -/
def entryOk (code entry : Nat) : Bool :=
  match code with
  | 2 => within 1 16 entry
  | 3 => within 0 7 entry
  | 4 => within 1 64 entry
  | 5 => within 0 3 entry
  | _ => decide (entry = 0)

/-- An entry of a table is tested and written (R34 steps 4 to 6). -/
def writeEntry (code entry : Nat) (b : List Byte) (s : State) : Except Nat State :=
  match code with
  | 1 => writeReach b s
  | 2 => writeTurnout entry b s
  | 3 => writeRating entry b s
  | 4 => writeAccount entry b s
  | 5 => writeTariff entry b s
  | 6 => writeTiming b s
  | 7 => writeScan b s
  | _ => .ok (writeEnables b s)

/-- The tests of R34 in order, and the write. -/
def tryWrite (body : List Byte) (s : State) : Except Nat State :=
  let code := field body 1 1
  let entry := field body 2 1
  if body.length < 3 ∨ (isTable code = true ∧ body.length ≠ 3 + entrySize code) then .error Reason.malformed
  else if isTable code = false then .error Reason.noSuchTable
  else if entryOk code entry = false then .error Reason.noSuchEntry
  else writeEntry code entry (body.drop 3) s

/-- TABLE WRITE (R34): the consequences come before the reply DONE (R95, R156, log 17). -/
def actTableWrite (body : List Byte) (s : State) : State :=
  match tryWrite body s with
  | .error reason => refuse (requestNumber body) Kind.tableWrite reason s
  | .ok s1 => done (requestNumber body) Kind.tableWrite s1

/-! ## TABLE READ (R44) -/

/-- The content of a REACH selector. -/
def readReachTable (selector : Nat) (s : State) : Except Nat (List Byte) :=
  match selector with
  | 0 => .ok (reachBytes s.tables.reach)
  | 1 => .ok (balanceBytes s.metering.balance)
  | 2 =>
    match s.metering.record with
    | none => .error Reason.notPresent
    | some r => .ok (be 2 r.period ++ be 4 r.inflow ++ be 4 r.outflow)
  | _ => .error Reason.noSuchEntry

/-- A turnout's entry in the reach period record. -/
def periodEntryOf (t : Turnout) (s : State) : Option PeriodEntry :=
  match s.metering.record with
  | none => none
  | some r => getAt r.entries t

/-- The content of a TURNOUTS selector. -/
def readTurnoutTable (t : Turnout) (selector : Nat) (s : State) : Except Nat (List Byte) :=
  match selector with
  | 0 => .ok (turnoutBytes (getAt s.tables.turnouts t))
  | 1 => .ok (meterBytes (getAt s.metering.meters t))
  | 2 => .ok (gateBytes (getAt s.gates t))
  | 3 =>
    match periodEntryOf t s with
    | none => .error Reason.notPresent
    | some e => .ok (be 4 e.total ++ be 4 e.unordered ++ be 4 e.unmetered)
  | _ => .error Reason.noSuchEntry

/-- The content of an ACCOUNTS selector. -/
def readAccountTable (i : Fin 64) (selector : Nat) (s : State) : Except Nat (List Byte) :=
  match selector with
  | 0 => .ok (accountBytes (getAt s.tables.accounts i))
  | 1 => .ok (volumeBytes (getAt s.metering.counters i))
  | 2 => .ok (chargeBytes (getAt s.metering.counters i))
  | _ => .error Reason.noSuchEntry

/-- The content of a TARIFF selector. -/
def readTariffTable (c : Fin 4) (selector : Nat) (s : State) : Except Nat (List Byte) :=
  match selector with
  | 0 => .ok (tariffBytes (getAt s.billing.active c))
  | 1 =>
    match s.billing.staged with
    | none => .error Reason.notPresent
    | some x => .ok (tariffBytes (getAt x.entries c))
  | _ => .error Reason.noSuchEntry

/-- The content of a SCAN entry: 0 the entry fields, 1..18 a station record. -/
def readScanTable (entry : Nat) (s : State) : List Byte :=
  match stationOf entry with
  | some x => stationBytes (getAt s.scan.stations x)
  | none => scanBytes s.tables.scan

/-- A table that has selector 0 alone. -/
def onlySelector0 (selector : Nat) (b : List Byte) : Except Nat (List Byte) :=
  if selector = 0 then .ok b else .error Reason.noSuchEntry

/-- An entry number lies within what a TABLE READ of a table takes (R44). -/
def readEntryOk (code entry : Nat) : Bool := if code = 7 then within 0 18 entry else entryOk code entry

/-- The content that a selector of an entry names (R44). -/
def readEntry (code entry selector : Nat) (s : State) : Except Nat (List Byte) :=
  match code with
  | 1 => readReachTable selector s
  | 2 =>
    match turnoutOf entry with
    | none => .error Reason.noSuchEntry
    | some t => readTurnoutTable t selector s
  | 3 => onlySelector0 selector (halfBytes (getAt s.tables.rating (ratingEntry entry)))
  | 4 => readAccountTable (slotOf entry) selector s
  | 5 => readTariffTable (Fin.ofNat 4 entry) selector s
  | 6 => onlySelector0 selector (timingBytes s.tables.timing)
  | 7 => onlySelector0 selector (readScanTable entry s)
  | _ => onlySelector0 selector (enablesBytes s.tables.enables)

/-- The tests of a TABLE READ in order, and its content (R31, R44). -/
def tryRead (body : List Byte) (s : State) : Except Nat (List Byte) :=
  let code := field body 1 1
  let entry := field body 2 1
  if body.length ≠ 4 then .error Reason.malformed
  else if isTable code = false then .error Reason.noSuchTable
  else if readEntryOk code entry = false then .error Reason.noSuchEntry
  else readEntry code entry (field body 3 1) s

/-- TABLE READ (R44). -/
def actTableRead (body : List Byte) (s : State) : State :=
  match tryRead body s with
  | .error reason => refuse (requestNumber body) Kind.tableRead reason s
  | .ok content => answer (requestNumber body) Kind.tableRead Kind.tableData (body ++ content) s

/-! ## STATUS READ (R45) -/

/-- The eight counters of a port, in the order of R28. -/
def countBytes (c : LineCounts) : List Byte :=
  be 2 c.symbolErrors ++ be 2 c.framing ++ be 2 c.checkErrors ++ be 2 c.overruns ++ be 2 c.clashes
    ++ be 2 c.misrouted ++ be 2 c.refusedSource ++ be 2 c.queueDrops

/-- The frost call as STATUS DATA shows it (R45, R66). -/
def frostBytes (w : Option FrostWindow) : List Byte :=
  match w with
  | none => be 1 0 ++ be 3 0 ++ be 3 0
  | some w => be 1 1 ++ be 3 w.start ++ be 3 w.stop

/-- The clock status as its code (R45). -/
def clockCode : ClockStatus → Nat
  | .unset => 0
  | .set => 1

/-- The supply status as its code (R45). -/
def supplyCode : SupplyStatus → Nat
  | .low => 1
  | _ => 0

/-- The management state as its code (R45). -/
def mgmtCode : MgmtState → Nat
  | .ready => 0
  | .restartPending => 1
  | .wipePending => 2

/-- The restart record as bytes (R45, R53). -/
def restartBytes (r : RestartRecord) : List Byte :=
  be 1 (kindCode r.kind) ++ be 1 (resultCode r.result) ++ [r.factoryTables]

/-- The fields of part 0 of STATUS DATA (R45): 28 bytes, which with the request number and the part before them make the 30
bytes of the body (log 38). -/
def statusPart0 (s : State) : List Byte :=
  be 2 s.comms.flags.toNat ++ be 1 (clockCode s.clock.status) ++ be 2 s.clock.period ++ be 3 s.clock.seconds
    ++ be 1 (supplyCode s.supply.status) ++ restartBytes s.mgmt.restart ++ frostBytes s.clock.frost
    ++ be 2 (s.clock.curtail.getD 65535) ++ flagByte (!s.billing.closes.isEmpty) ++ be 1 (lockCode s.billing)
    ++ be 1 (storeCode s) ++ be 1 s.orders.table.length ++ be 1 s.carriage.list.length
    ++ be 1 s.billing.bills.length ++ be 1 (mgmtCode s.mgmt.state)

/-- A part of STATUS DATA (R45). -/
def statusPart (part : Nat) (s : State) : Option (List Byte) :=
  match part with
  | 0 => some (statusPart0 s)
  | 1 => some (countBytes s.comms.u.counts)
  | 2 => some (countBytes s.comms.d.counts ++ be 2 s.comms.unmatched)
  | _ => none

/-- STATUS READ (R45). -/
def actStatusRead (body : List Byte) (s : State) : State :=
  if body.length ≠ 2 then refuse (requestNumber body) Kind.statusRead Reason.malformed s
  else
    match statusPart (field body 1 1) s with
    | none => refuse (requestNumber body) Kind.statusRead Reason.noSuchEntry s
    | some content => answer (requestNumber body) Kind.statusRead Kind.statusData (body ++ content) s

/-! ## ORDER READ (R46) -/

/-- The free bytes that an order record's wide fields draw (log 22). -/
def orderDraws (o : OrderRec) : Nat :=
  match o.state with
  | .running _ v c => if v < 256 ^ 4 ∧ c < 256 ^ 6 then 0 else 10
  | _ => 0

/-- The record that a selector and a value name, as bytes, and the free bytes it draws (R46). -/
def recordBytes (selector value : Nat) (s : State) : Option (List Byte × Nat) :=
  match selector with
  | 0 => (findTag value s.orders.table).map fun o => (orderBytes s.free o, orderDraws o)
  | 1 => s.orders.table[value]?.map fun o => (orderBytes s.free o, orderDraws o)
  | _ => s.carriage.list[value]?.map fun r => (carriageBytes r, 0)

/-- ORDER READ (R46). -/
def actOrderRead (body : List Byte) (s : State) : State :=
  if body.length ≠ 3 ∨ 2 < field body 1 1 then refuse (requestNumber body) Kind.orderRead Reason.malformed s
  else
    match recordBytes (field body 1 1) (field body 2 1) s with
    | none => refuse (requestNumber body) Kind.orderRead Reason.noSuchOrder s
    | some (content, draws) =>
      answer (requestNumber body) Kind.orderRead Kind.orderData (body ++ content) { s with free := s.free + draws }

/-! ## EVENT CLEAR (R49) -/

/-- EVENT CLEAR (R49). -/
def actEventClear (body : List Byte) (s : State) : State :=
  if body.length ≠ 4 ∨ 1 < field body 3 1 then refuse (requestNumber body) Kind.eventClear Reason.malformed s
  else
    let s1 := clearFlags (BitVec.ofNat 16 (field body 1 2)) s
    done (requestNumber body) Kind.eventClear (if field body 3 1 = 1 then zeroCounts s1 else s1)

/-! ## COMMAND (R50..R52) -/

/-- The management state changes. -/
def setMgmt (m : MgmtState) (s : State) : State := { s with mgmt := { s.mgmt with state := m } }

/-- COMMAND RESTART taken in READY (R50): the reply is placed before the snapshot is asked for. -/
def actRestart (request : Byte) (s : State) : State :=
  requestSnapshot (reply request Kind.command Result.accepted [] (setMgmt .restartPending s))

/-- COMMAND LOCK TARIFF taken in READY (R51). -/
def actLock (request : Byte) (s : State) : State :=
  done request Kind.command { s with billing := lockTariff s.billing }

/-- The emptiness test of a WIPE (R52). -/
def wipeAllowed (s : State) : Bool :=
  s.billing.bills.isEmpty && s.orders.table.isEmpty && s.carriage.list.isEmpty

/-- COMMAND WIPE taken in READY (R52). -/
def actWipe (request : Byte) (s : State) : State :=
  if wipeAllowed s then requestWipe (reply request Kind.command Result.accepted [] (setMgmt .wipePending s))
  else refuse request Kind.command Reason.notEmpty s

/-- COMMAND (R31, R50..R52). -/
def actCommand (body : List Byte) (s : State) : State :=
  let request := requestNumber body
  if body.length ≠ 2 then refuse request Kind.command Reason.malformed s
  else
    match field body 1 1 with
    | 1 => actRestart request s
    | 2 => actLock request s
    | 3 => actWipe request s
    | _ => refuse request Kind.command Reason.malformed s

/-! ## STORE COMMIT (R181) -/

/-- A STORE COMMIT taken while idle begins an operation on its region. -/
def beginCommit (request : Byte) (r : RegionId) (s : State) : State :=
  let s1 := reply request Kind.storeCommit Result.accepted (be 1 (regionCode r)) s
  beginWrite s1.clock.period (copyOf r s1) (some request) false s1

/-- STORE COMMIT (R181). -/
def actStoreCommit (body : List Byte) (s : State) : State :=
  let request := requestNumber body
  match regionOf (field body 1 1) with
  | none => refuse request Kind.storeCommit Reason.malformed s
  | some r =>
    if body.length ≠ 2 then refuse request Kind.storeCommit Reason.malformed s
    else if storeBusy s then busy request Kind.storeCommit (be 1 (regionCode r)) s
    else beginCommit request r s

/-! ## BILL READ (R175, R176) -/

/-- The body of BILL DATA (section 9.5). -/
def billDataBody (request : Byte) (mode part held : Nat) (b : Bill) : List Byte :=
  [request] ++ be 1 mode ++ be 1 part ++ be 1 held ++ billPart part b

/-- A PEEK of a bill (R175). -/
def peekBill (request : Byte) (part : Nat) (b : Bill) (s : State) : State :=
  answer request Kind.billRead Kind.billData (billDataBody request 0 part s.billing.bills.length b) s

/-- A COLLECT of the oldest bill, and the completion test that follows the reply (R176). -/
def collectBill (request : Byte) (part : Nat) (b : Bill) (rest : List Bill) (s : State) : State :=
  testAfterCollect
    (answer request Kind.billRead Kind.billData (billDataBody request 1 part rest.length b)
      { s with billing := { s.billing with bills := rest } })

/-- BILL READ on a list that holds a bill, well formed (R175). -/
def readBill (request : Byte) (mode index part : Nat) (b : Bill) (rest : List Bill) (s : State) : State :=
  if mode = 1 then
    if index = 0 then collectBill request part b rest s else refuse request Kind.billRead Reason.noSuchEntry s
  else
    match s.billing.bills[index]? with
    | none => refuse request Kind.billRead Reason.noSuchEntry s
    | some x => peekBill request part x s

/-- BILL READ (R175, R176). -/
def actBillRead (body : List Byte) (s : State) : State :=
  let request := requestNumber body
  if body.length ≠ 4 ∨ 1 < field body 1 1 ∨ 1 < field body 3 1 then
    refuse request Kind.billRead Reason.malformed s
  else
    match s.billing.bills with
    | [] => reply request Kind.billRead Result.empty [] s
    | b :: rest => readBill request (field body 1 1) (field body 2 1) (field body 3 1) b rest s

/-! ## Requests (R31, R32, section 2.5) -/

/-- A request kind is acted on by its own rule; other kinds are not handed here (R31). -/
def act (kind : Nat) (body : List Byte) (s : State) : State :=
  if kind = Kind.tableWrite then actTableWrite body s
  else if kind = Kind.tableRead then actTableRead body s
  else if kind = Kind.storeCommit then actStoreCommit body s
  else if kind = Kind.statusRead then actStatusRead body s
  else if kind = Kind.eventClear then actEventClear body s
  else if kind = Kind.billRead then actBillRead body s
  else if kind = Kind.orderRead then actOrderRead body s
  else if kind = Kind.command then actCommand body s
  else s

/-- The stored reply, when a request repeats the last one (R32). -/
def repeatOf (kind : Nat) (body : List Byte) (s : State) : Option LastReply :=
  s.mgmt.lastReply.filter fun r => r.request == requestNumber body && r.kind == kind

/-- The fourth byte of a BUSY reply given for a pending command (R33, section 2.5): the region of a STORE COMMIT, a
free byte where the body names none (log 15). -/
def pendingFourth (kind : Nat) (body : List Byte) (draw : Nat) : List Byte :=
  if kind = Kind.storeCommit then [body[1]?.getD (Config.freeByte draw)] else []

/-- The free bytes that `pendingFourth` draws. -/
def pendingDraws (kind : Nat) (body : List Byte) : Nat :=
  if kind = Kind.storeCommit ∧ body.length < 2 then 1 else 0

/-- A request taken while a command is pending (section 2.5). -/
def busyPending (kind : Nat) (body : List Byte) (s : State) : State :=
  busy (requestNumber body) kind (pendingFourth kind body s.free)
    { s with free := s.free + pendingDraws kind body }

/-- The management unit takes a request (R31, R32, section 2.5). -/
def takeRequest (kind : Nat) (body : List Byte) (s : State) : State :=
  match repeatOf kind body s with
  | some r => resend r s
  | none =>
    if s.mgmt.state ≠ .ready ∧ kind ≠ Kind.statusRead then busyPending kind body s
    else act kind body s

/-! ## The commands -/

/-- A TABLE WRITE body of a table code. -/
def writeBody (request : Byte) (code : Nat) (entry : Byte) (fields : List Byte) : List Byte :=
  [request] ++ be 1 code ++ [entry] ++ fields

/-- A TABLE WRITE reaches the management unit. -/
def tableWrite (code : Nat) (request entry : Byte) (fields : List Byte) (s : State) : State :=
  whileRunning (takeRequest Kind.tableWrite (writeBody request code entry fields)) s

/-- A request of another kind reaches the management unit. -/
def requestOf (kind : Nat) (body : List Byte) (s : State) : State := whileRunning (takeRequest kind body) s

/-- TABLE_WRITE_REACH (R35, R36). -/
def execTableWriteReach (request entry : Byte) (fields : List Byte) (s : State) : Host.Outcome State Fault Refusal :=
  .next (tableWrite 1 request entry fields s)

/-- TABLE_WRITE_TURNOUTS (R37). -/
def execTableWriteTurnouts (request entry : Byte) (fields : List Byte) (s : State) :
    Host.Outcome State Fault Refusal :=
  .next (tableWrite 2 request entry fields s)

/-- TABLE_WRITE_RATING (R38). -/
def execTableWriteRating (request entry : Byte) (fields : List Byte) (s : State) : Host.Outcome State Fault Refusal :=
  .next (tableWrite 3 request entry fields s)

/-- TABLE_WRITE_ACCOUNTS (R39, R40). -/
def execTableWriteAccounts (request entry : Byte) (fields : List Byte) (s : State) :
    Host.Outcome State Fault Refusal :=
  .next (tableWrite 4 request entry fields s)

/-- TABLE_WRITE_TARIFF (R41). -/
def execTableWriteTariff (request entry : Byte) (fields : List Byte) (s : State) : Host.Outcome State Fault Refusal :=
  .next (tableWrite 5 request entry fields s)

/-- TABLE_WRITE_LINE_TIMING (R42). -/
def execTableWriteLineTiming (request entry : Byte) (fields : List Byte) (s : State) :
    Host.Outcome State Fault Refusal :=
  .next (tableWrite 6 request entry fields s)

/-- TABLE_WRITE_SCAN (R43). -/
def execTableWriteScan (request entry : Byte) (fields : List Byte) (s : State) : Host.Outcome State Fault Refusal :=
  .next (tableWrite 7 request entry fields s)

/-- TABLE_WRITE_ALERT_ENABLES (R43). -/
def execTableWriteAlertEnables (request entry : Byte) (fields : List Byte) (s : State) :
    Host.Outcome State Fault Refusal :=
  .next (tableWrite 8 request entry fields s)

/-- TABLE_READ (R44). -/
def execTableRead (body : List Byte) (s : State) : Host.Outcome State Fault Refusal :=
  .next (requestOf Kind.tableRead body s)

/-- STATUS_READ (R45). -/
def execStatusRead (body : List Byte) (s : State) : Host.Outcome State Fault Refusal :=
  .next (requestOf Kind.statusRead body s)

/-- EVENT_CLEAR (R49). -/
def execEventClear (body : List Byte) (s : State) : Host.Outcome State Fault Refusal :=
  .next (requestOf Kind.eventClear body s)

/-- ORDER_READ (R46). -/
def execOrderRead (body : List Byte) (s : State) : Host.Outcome State Fault Refusal :=
  .next (requestOf Kind.orderRead body s)

/-- COMMAND_RESTART (R50). -/
def execCommandRestart (request : Byte) (s : State) : Host.Outcome State Fault Refusal :=
  .next (requestOf Kind.command ([request] ++ be 1 1) s)

/-- COMMAND_LOCK_TARIFF (R51). -/
def execCommandLockTariff (request : Byte) (s : State) : Host.Outcome State Fault Refusal :=
  .next (requestOf Kind.command ([request] ++ be 1 2) s)

/-- COMMAND_WIPE (R52). -/
def execCommandWipe (request : Byte) (s : State) : Host.Outcome State Fault Refusal :=
  .next (requestOf Kind.command ([request] ++ be 1 3) s)

/-- STORE_COMMIT (R181). -/
def execStoreCommit (body : List Byte) (s : State) : Host.Outcome State Fault Refusal :=
  .next (requestOf Kind.storeCommit body s)

/-- BILL_READ_PEEK (R175). -/
def execBillReadPeek (request index part : Byte) (s : State) : Host.Outcome State Fault Refusal :=
  .next (requestOf Kind.billRead ([request] ++ be 1 0 ++ [index, part]) s)

/-- BILL_READ_COLLECT (R176). -/
def execBillReadCollect (request index part : Byte) (s : State) : Host.Outcome State Fault Refusal :=
  .next (requestOf Kind.billRead ([request] ++ be 1 1 ++ [index, part]) s)

end Sys2Proof.Machine
end

