-- ==== Sys2Proof/Machine/Router.lean ====
section
/-! DEFINITION. Machine/Router.lean: the frame router (01 section 1.4) and the commands that a frame's arrival makes. -/

namespace Sys2Proof.Machine

/-! ## Consumption (R18) -/

/-- A kind that the management unit takes (R18, R31). -/
def isRequest (kind : Nat) : Bool :=
  [Kind.tableWrite, Kind.tableRead, Kind.storeCommit, Kind.statusRead, Kind.eventClear, Kind.billRead,
    Kind.orderRead, Kind.command].contains kind

/-- A carriage kind (R15). -/
def isCarriage (kind : Nat) : Bool := [Kind.demand, Kind.confirm, Kind.refuse, Kind.release].contains kind

/-- A kind that is placed in the D queue marked (R23). -/
def isMarkedCall (kind : Nat) : Bool := kind == Kind.frostCall || kind == Kind.curtail

/-- The taker of a frame consumed at the D port from turnout station `t` (R18). -/
def deliverTurnout (t : Turnout) (f : Frame) (s : State) : State :=
  if f.kind = Kind.order then takeOrder t f.body s
  else if f.kind = Kind.orderCancel then takeCancel t f.body s
  else if f.kind = Kind.gateReport then takeReport t f.body s
  else countRefusedSource .d s

/-- A frame consumed at the D port (R18). -/
def deliverDown (f : Frame) (s : State) : State :=
  if f.src.reach ≠ ownReach s then countRefusedSource .d s
  else if f.kind = Kind.headReading then
    match stationOf f.src.station with
    | some x => takeHeadReading x f.body s
    | none => countRefusedSource .d s
  else
    match turnoutOf f.src.station with
    | some t => deliverTurnout t f s
    | none => countRefusedSource .d s

/-- A CONFIRM or REFUSE addressed to the part (R18). -/
def deliverAnswer (f : Frame) (s : State) : State :=
  if ownReach s ≤ f.src.reach then countRefusedSource .u s
  else if f.kind = Kind.confirm then takeConfirm f.body s
  else takeRefuse f.body s

/-- A frame from 0.0 consumed at the U port (R18). -/
def deliverOffice (own : Bool) (f : Frame) (s : State) : State :=
  if f.kind = Kind.time then takeTime f.body s
  else if f.kind = Kind.frostCall then takeFrostCall f.body s
  else if f.kind = Kind.curtail then takeCurtail f.body s
  else if own && isRequest f.kind then takeRequest f.kind f.body s
  else countRefusedSource .u s

/-- A frame consumed at the U port (R18). -/
def deliverUp (f : Frame) (s : State) : State :=
  let own := f.dst.reach == ownReach s
  if own && (f.kind == Kind.confirm || f.kind == Kind.refuse) then deliverAnswer f s
  else if f.src = office then deliverOffice own f s
  else countRefusedSource .u s

/-! ## Forwarding (R19, R23) -/

/-- The frame as it joins the queue of a port (R23). -/
def forwarded (p : Port) (f : Frame) : Frame :=
  match p with
  | .u => f
  | .d => if isMarkedCall f.kind then { f with marked := true } else f

/-- A frame goes on by a port. -/
def forward (p : Port) (f : Frame) (s : State) : State := place p (forwarded p f) s

/-- A DEMAND climbing (R19). -/
def climbDemand (f : Frame) (s : State) : State :=
  match (passDemand f s).2 with
  | some g => forward .u g (passDemand f s).1
  | none => (passDemand f s).1

/-- A RELEASE climbing (R19). -/
def climbRelease (f : Frame) (s : State) : State := forward .u (passRelease f s).2 (passRelease f s).1

/-- A frame going down past the part (R15 case 6, R19, R101). -/
def descend (f : Frame) (s : State) : State :=
  if f.dst.reach ≤ 249 ∧ f.kind = Kind.confirm then forward .d f (passConfirm f s)
  else if f.dst.reach ≤ 249 ∧ f.kind = Kind.refuse then forward .d f (passRefuse f s)
  else forward .d f s

/-- A frame going up past the part (R16 case 5, R19). -/
def climb (f : Frame) (s : State) : State :=
  if f.kind = Kind.demand then climbDemand f s
  else if f.kind = Kind.release then climbRelease f s
  else forward .u f s

/-! ## The routes (R15..R17) -/

/-- An assigned part routes a frame from the U port (R15). -/
def routeUp (f : Frame) (s : State) : State :=
  let n := ownReach s
  if f.dst.reach = 255 then forward .d f (deliverUp f s)
  else if 251 ≤ f.dst.reach ∨ 19 ≤ f.dst.station then countMisrouted .u s
  else if f.dst.reach < n then (if f.src.reach < n then s else countMisrouted .u s)
  else if f.dst.reach = n then (if f.dst.station = 0 then deliverUp f s else forward .d f s)
  else descend f s

/-- An assigned part routes a frame from the D port (R16). -/
def routeDown (f : Frame) (s : State) : State :=
  let n := ownReach s
  if n < f.dst.reach ∨ 19 ≤ f.dst.station then countMisrouted .d s
  else if f.dst.reach = n then (if f.dst.station = 0 then deliverDown f s else countMisrouted .d s)
  else climb f s

/-- An unassigned part routes a frame (R17). -/
def routeUnassigned (p : Port) (f : Frame) (s : State) : State :=
  match p with
  | .u =>
    if f.dst = ⟨250, 0⟩ ∧ f.src = office ∧ isRequest f.kind = true then takeRequest f.kind f.body s
    else forward .d f s
  | .d => forward .u f s

/-- The router works on a frame that arrived on a port. -/
def work (p : Port) (f : Frame) (s : State) : State :=
  if ownReach s = 0 then routeUnassigned p f s
  else
    match p with
    | .u => routeUp f s
    | .d => routeDown f s

/-! ## Arbitration (R14) -/

/-- The port that the free router takes from next (R14). -/
def nextPort (s : State) : Option Port :=
  match s.comms.u.holding.isEmpty, s.comms.d.holding.isEmpty with
  | true, true => none
  | false, true => some .u
  | true, false => some .d
  | false, false => some (if s.lastTaken = some .u then .d else .u)

/-- The frame is finished with and leaves its holding (R14). -/
def leaveHolding (p : Port) (s : State) : State := mapUnit p (fun x => { x with holding := x.holding.tail }) s

/-- The router takes the oldest frame of a port's holding and finishes with it (R13, R14). -/
def routeFrom (p : Port) (s : State) : State :=
  match (unitAt p s).holding with
  | [] => s
  | f :: _ => leaveHolding p (work p f { s with lastTaken := some p })

/-- The router takes its next frame (R14). -/
def routeNext (s : State) : State :=
  match nextPort s with
  | none => s
  | some p => routeFrom p s

/-- ROUTE_FRAME (R14). -/
def execRouteFrame (s : State) : Host.Outcome State Fault Refusal := .next (whileRunning routeNext s)

/-! ## The commands that a frame's arrival makes (log 1) -/

/-- A frame received whole, accepted and taken by the router (R14). It does not count as taken from its port: the port taken
from last stays as it was (the model's choice, log 1). -/
def arrive (p : Port) (dst src : Addr) (kind : Nat) (body : List Byte) (marked : Bool) (s : State) : State :=
  whileRunning (work p (mkFrame dst src kind body marked)) s

/-- A frame of a station of the reach for the part. -/
def fromStation (station kind : Nat) (body : List Byte) (marked : Bool) (s : State) : State :=
  arrive .d (stationAddr s 0) (stationAddr s station) kind body marked s

/-- A district call from the office, addressed to the part or broadcast. -/
def fromOffice (broadcast : Bool) (kind : Nat) (body : List Byte) (marked : Bool) (s : State) : State :=
  arrive .u (if broadcast then ⟨255, 0⟩ else stationAddr s 0) office kind body marked s

/-- TIME (R58). -/
def execTime (broadcast marked : Bool) (body : List Byte) (s : State) : Host.Outcome State Fault Refusal :=
  .next (fromOffice broadcast Kind.time body marked s)

/-- FROST_CALL (R65). -/
def execFrostCall (broadcast marked : Bool) (body : List Byte) (s : State) : Host.Outcome State Fault Refusal :=
  .next (fromOffice broadcast Kind.frostCall body marked s)

/-- CURTAIL (R67). -/
def execCurtail (broadcast marked : Bool) (body : List Byte) (s : State) : Host.Outcome State Fault Refusal :=
  .next (fromOffice broadcast Kind.curtail body marked s)

/-- ORDER (R74). -/
def execOrder (t : Turnout) (marked : Bool) (body : List Byte) (s : State) : Host.Outcome State Fault Refusal :=
  .next (fromStation (stationNumber t) Kind.order body marked s)

/-- ORDER_CANCEL (R93). -/
def execOrderCancel (t : Turnout) (marked : Bool) (body : List Byte) (s : State) :
    Host.Outcome State Fault Refusal :=
  .next (fromStation (stationNumber t) Kind.orderCancel body marked s)

/-- GATE_REPORT (R121). -/
def execGateReport (t : Turnout) (marked : Bool) (body : List Byte) (s : State) : Host.Outcome State Fault Refusal :=
  .next (fromStation (stationNumber t) Kind.gateReport body marked s)

/-- HEAD_READING (R137). -/
def execHeadReading (x : Station) (marked : Bool) (body : List Byte) (s : State) :
    Host.Outcome State Fault Refusal :=
  .next (fromStation (x.val + 1) Kind.headReading body marked s)

/-- CONFIRM_AT_ORIGIN (R81). -/
def execConfirmAtOrigin (src : Addr) (marked : Bool) (body : List Byte) (s : State) :
    Host.Outcome State Fault Refusal :=
  .next (arrive .u (stationAddr s 0) src Kind.confirm body marked s)

/-- REFUSE_AT_ORIGIN (R83). -/
def execRefuseAtOrigin (src : Addr) (marked : Bool) (body : List Byte) (s : State) :
    Host.Outcome State Fault Refusal :=
  .next (arrive .u (stationAddr s 0) src Kind.refuse body marked s)

/-- DEMAND (R103). -/
def execDemand (src dst : Addr) (marked : Bool) (body : List Byte) (s : State) : Host.Outcome State Fault Refusal :=
  .next (arrive .d dst src Kind.demand body marked s)

/-- CONFIRM_PASSING (R107). -/
def execConfirmPassing (src dst : Addr) (marked : Bool) (body : List Byte) (s : State) :
    Host.Outcome State Fault Refusal :=
  .next (arrive .u dst src Kind.confirm body marked s)

/-- REFUSE_PASSING (R108). -/
def execRefusePassing (src dst : Addr) (marked : Bool) (body : List Byte) (s : State) :
    Host.Outcome State Fault Refusal :=
  .next (arrive .u dst src Kind.refuse body marked s)

/-- RELEASE (R110). -/
def execRelease (src dst : Addr) (marked : Bool) (body : List Byte) (s : State) : Host.Outcome State Fault Refusal :=
  .next (arrive .d dst src Kind.release body marked s)

end Sys2Proof.Machine
end

