-- ==== Sys2Proof/Machine/Dispatch.lean ====
section
/-! DEFINITION. Machine/Dispatch.lean: one arm for each command. -/

namespace Sys2Proof.Machine

def exec (i : Instr) (s : State) : Host.Outcome State Fault Refusal :=
  match i with
  | .endGap p => Sys2Proof.Machine.execEndGap p s
  | .captureSaturation p => Sys2Proof.Machine.execCaptureSaturation p s
  | .routeFrame => Sys2Proof.Machine.execRouteFrame s
  | .transmitStart p quiet => Sys2Proof.Machine.execTransmitStart p quiet s
  | .transmitEnd p => Sys2Proof.Machine.execTransmitEnd p s
  | .talkerClash p => Sys2Proof.Machine.execTalkerClash p s
  | .tableWriteReach request entry fields => Sys2Proof.Machine.execTableWriteReach request entry fields s
  | .tableWriteTurnouts request entry fields => Sys2Proof.Machine.execTableWriteTurnouts request entry fields s
  | .tableWriteRating request entry fields => Sys2Proof.Machine.execTableWriteRating request entry fields s
  | .tableWriteAccounts request entry fields => Sys2Proof.Machine.execTableWriteAccounts request entry fields s
  | .tableWriteTariff request entry fields => Sys2Proof.Machine.execTableWriteTariff request entry fields s
  | .tableWriteLineTiming request entry fields => Sys2Proof.Machine.execTableWriteLineTiming request entry fields s
  | .tableWriteScan request entry fields => Sys2Proof.Machine.execTableWriteScan request entry fields s
  | .tableWriteAlertEnables request entry fields => Sys2Proof.Machine.execTableWriteAlertEnables request entry fields s
  | .tableRead body => Sys2Proof.Machine.execTableRead body s
  | .statusRead body => Sys2Proof.Machine.execStatusRead body s
  | .eventClear body => Sys2Proof.Machine.execEventClear body s
  | .orderRead body => Sys2Proof.Machine.execOrderRead body s
  | .commandRestart request => Sys2Proof.Machine.execCommandRestart request s
  | .commandLockTariff request => Sys2Proof.Machine.execCommandLockTariff request s
  | .commandWipe request => Sys2Proof.Machine.execCommandWipe request s
  | .storeCommit body => Sys2Proof.Machine.execStoreCommit body s
  | .billReadPeek request index part => Sys2Proof.Machine.execBillReadPeek request index part s
  | .billReadCollect request index part => Sys2Proof.Machine.execBillReadCollect request index part s
  | .tick => Sys2Proof.Machine.execTick s
  | .time broadcast marked body => Sys2Proof.Machine.execTime broadcast marked body s
  | .frostCall broadcast marked body => Sys2Proof.Machine.execFrostCall broadcast marked body s
  | .frostWindowEndReached => Sys2Proof.Machine.execFrostWindowEndReached s
  | .curtail broadcast marked body => Sys2Proof.Machine.execCurtail broadcast marked body s
  | .periodClose => Sys2Proof.Machine.execPeriodClose s
  | .order t marked body => Sys2Proof.Machine.execOrder t marked body s
  | .orderCancel t marked body => Sys2Proof.Machine.execOrderCancel t marked body s
  | .confirmAtOrigin src marked body => Sys2Proof.Machine.execConfirmAtOrigin src marked body s
  | .refuseAtOrigin src marked body => Sys2Proof.Machine.execRefuseAtOrigin src marked body s
  | .holdDeadlineReached => Sys2Proof.Machine.execHoldDeadlineReached s
  | .startReached => Sys2Proof.Machine.execStartReached s
  | .endReached => Sys2Proof.Machine.execEndReached s
  | .demand src dst marked body => Sys2Proof.Machine.execDemand src dst marked body s
  | .confirmPassing src dst marked body => Sys2Proof.Machine.execConfirmPassing src dst marked body s
  | .refusePassing src dst marked body => Sys2Proof.Machine.execRefusePassing src dst marked body s
  | .release src dst marked body => Sys2Proof.Machine.execRelease src dst marked body s
  | .carriageHoldDeadlineReached => Sys2Proof.Machine.execCarriageHoldDeadlineReached s
  | .windowEndReached => Sys2Proof.Machine.execWindowEndReached s
  | .gateReport t marked body => Sys2Proof.Machine.execGateReport t marked body s
  | .gateReplyTimeout t => Sys2Proof.Machine.execGateReplyTimeout t s
  | .gateTravelTimeout t => Sys2Proof.Machine.execGateTravelTimeout t s
  | .scanIntervalExpiry => Sys2Proof.Machine.execScanIntervalExpiry s
  | .pollReplyTimeout => Sys2Proof.Machine.execPollReplyTimeout s
  | .headReading x marked body => Sys2Proof.Machine.execHeadReading x marked body s
  | .storeOperationEnd passed => Sys2Proof.Machine.execStoreOperationEnd passed s
  | .supplyLow level => Sys2Proof.Machine.execSupplyLow level s
  | .supplyNormal level => Sys2Proof.Machine.execSupplyNormal level s
  | .supplyBackup level => Sys2Proof.Machine.execSupplyBackup level s
  | .supplyRestart level => Sys2Proof.Machine.execSupplyRestart level s
  | .inactiveEdge p width => Sys2Proof.Machine.execInactiveEdge p width s
  | .activeEdge p => Sys2Proof.Machine.execActiveEdge p s
  | .loadingComplete => Sys2Proof.Machine.execLoadingComplete s
  | .workingMemoryLoss level => Sys2Proof.Machine.execWorkingMemoryLoss level s

end Sys2Proof.Machine
end

