-- ==== Sys2Proof/Safety.lean ====
section
/-! DEFINITION. Safety.lean: the laws of the part's records, and the premises that the statements share. -/

namespace Sys2Proof.Safety

open Sys2Proof.Machine

/-! ## Premises -/

/-- The part takes events (R184, R188). -/
abbrev Runs (s : State) : Prop := isRunning s = true

/-- The part is assigned: its own reach number is 1..249. -/
def Assigned (s : State) : Prop := 1 ≤ ownReach s ∧ ownReach s ≤ 249

/-- The management commands as requests: kind and body (section 2.1). -/
def asRequest : Instr → Option (Nat × List Byte)
  | .tableWriteReach q e b => some (0x71, writeBody q 1 e b)
  | .tableWriteTurnouts q e b => some (0x71, writeBody q 2 e b)
  | .tableWriteRating q e b => some (0x71, writeBody q 3 e b)
  | .tableWriteAccounts q e b => some (0x71, writeBody q 4 e b)
  | .tableWriteTariff q e b => some (0x71, writeBody q 5 e b)
  | .tableWriteLineTiming q e b => some (0x71, writeBody q 6 e b)
  | .tableWriteScan q e b => some (0x71, writeBody q 7 e b)
  | .tableWriteAlertEnables q e b => some (0x71, writeBody q 8 e b)
  | .tableRead b => some (0x72, b)
  | .storeCommit b => some (0x74, b)
  | .statusRead b => some (0x75, b)
  | .eventClear b => some (0x77, b)
  | .billReadPeek q i p => some (0x78, [q, 0, i, p])
  | .billReadCollect q i p => some (0x78, [q, 1, i, p])
  | .orderRead b => some (0x7A, b)
  | .commandRestart q => some (0x7C, [q, 1])
  | .commandLockTariff q => some (0x7C, [q, 2])
  | .commandWipe q => some (0x7C, [q, 3])
  | _ => none

/-- A request that is acted on: the part runs, no command is pending, and it repeats no stored request (R32,
section 2.5). -/
def ActedOn (kind : Nat) (request : Byte) (s : State) : Prop :=
  Runs s ∧ s.mgmt.state = .ready
    ∧ ∀ r, s.mgmt.lastReply = some r → ¬ (r.request = request ∧ r.kind = kind)

/-- The commands that the supply monitor and the end of loading make; the others reach a running part alone. -/
def takenWhileStopped : Instr → Bool
  | .supplyLow _ => true
  | .supplyNormal _ => true
  | .supplyBackup _ => true
  | .supplyRestart _ => true
  | .workingMemoryLoss _ => true
  | .loadingComplete => true
  | _ => false

/-- The port measures an active pulse that is not saturated (R2). -/
def PulseEnds (p : Port) (s : State) : Prop :=
  Runs s ∧ (unitAt p s).active = true ∧ (unitAt p s).inFlight = none ∧ (unitAt p s).counter < 65535

/-- The port counts quiet time and has not raised the end gap of the interval (R4). -/
def GapComes (p : Port) (s : State) : Prop :=
  Runs s ∧ (unitAt p s).active = false ∧ (unitAt p s).inFlight = none ∧ (unitAt p s).gapRaised = false
    ∧ s.tables.timing.endGap ≤ 4095

/-- The port after an inactive edge, with its receiver (R2). -/
def afterPulse (r : Receiver) (p : Port) (s : State) : State :=
  mapUnit p (fun x => { x with counter := 0, active := false, gapRaised := false, receiver := r }) s

/-- The port after an end gap, with its receiver in IDLE (R4, R8, R9). -/
def afterGap (p : Port) (s : State) : State :=
  mapUnit p (fun x => { x with
    counter := max x.counter s.tables.timing.endGap
    gapRaised := true
    receiver := .idle }) s

/-- One symbol error at a port (R28, R29). -/
def symbolError (p : Port) (s : State) : State :=
  raise .lineFault (count p (fun c => { c with symbolErrors := min 65535 (c.symbolErrors + 1) }) s)

/-- One framing/overlong error at a port (R28, R29). -/
def framingError (p : Port) (s : State) : State :=
  raise .lineFault (count p (fun c => { c with framing := min 65535 (c.framing + 1) }) s)

/-- The frame's header fields fit their bytes and its body is 0..36 bytes (R11). -/
def FrameFits (dst src : Addr) (kind : Nat) (body : List Byte) : Prop :=
  dst.reach < 256 ∧ dst.station < 256 ∧ src.reach < 256 ∧ src.station < 256 ∧ kind < 256 ∧ body.length ≤ 36

/-- A region is complete: it holds a header and a content, its check is the check of R12 over both, and its complete mark
reads exactly (R178). -/
def Complete {α : Type} (bytes : α → List Byte) (x : Stored α) (h : Header) (content : α) : Prop :=
  x = some ⟨h, content, crc16 (be 4 h.sequence ++ be 2 h.period ++ bytes content), true⟩

/-- A region is incomplete: erased, without an exact complete mark, or with a wrong check (R178). -/
def Incomplete {α : Type} (bytes : α → List Byte) (x : Stored α) : Prop := ∀ h content, ¬ Complete bytes x h content

/-- The region of a copy is complete with a header and that copy (R178, R179). -/
def HoldsCopy (g : Regions) (h : Header) : Image → Prop
  | .reach x => Complete reachBytes g.reach h x
  | .turnouts x => Complete (entryBytes turnoutBytes) g.turnouts h x
  | .rating x => Complete (entryBytes halfBytes) g.rating h x
  | .accounts x => Complete (entryBytes accountBytes) g.accounts h x
  | .tariff x => Complete tariffImageBytes g.tariff h x
  | .lineTiming x => Complete timingBytes g.lineTiming h x
  | .scan x => Complete scanBytes g.scan h x
  | .alertEnables x => Complete enablesBytes g.alertEnables h x
  | .accountState x => Complete accountImageBytes g.accountState h x

/-- Some region is complete with a header (R178, R187). -/
def HoldsHeader (g : Regions) (h : Header) : Prop := ∃ i, HoldsCopy g h i

/-- A region is incomplete (R178). -/
def LacksRegion (g : Regions) (r : RegionId) : Prop := ∀ h i, imageRegion i = r → ¬ HoldsCopy g h i

/-! ## Laws -/

/-- A transmit queue has eight places and stands in two classes, marked frames first (R21, R22). -/
def queueOk (q : List Frame) : Prop :=
  q.length ≤ 8 ∧ q.Pairwise fun f g => g.marked = true → f.marked = true

/-- Both transmit queues keep their form, and both holdings have two places (R13, R21, R22). -/
def QueueLaw (s : State) : Prop :=
  ∀ p, queueOk (unitAt p s).queue ∧ (unitAt p s).holding.length ≤ 2

/-- The bypass relay is closed exactly while the part is stopped or loading (R184, R185, R188), and never both. -/
def RelayLaw (s : State) : Prop :=
  (s.supply.relayClosed = true ↔ s.supply.status = .backup ∨ s.loading.isSome = true)
    ∧ ¬ (s.supply.status = .backup ∧ s.loading.isSome = true)

/-- The law of the turnout meters (R149). -/
def meterOk (m : Meters) : Prop := m.total = m.credited + m.runOut + m.unordered ∧ m.total ≤ 4294967295

/-- The law of the turnout meters holds of every turnout, and of every copy of the meters in the store. -/
def MeterLaw (s : State) : Prop :=
  (∀ t, meterOk (getAt s.metering.meters t))
    ∧ (∀ r, s.store.regions.accountState = some r → ∀ t, meterOk (getAt r.content.meters t))
    ∧ ∀ op a, s.store.op = some op → op.image = .accountState a → ∀ t, meterOk (getAt a.meters t)

/-- The clock record: period seconds stand at 0 while UNSET, run seconds stay in range, and the local draw limit is
the one that R68 gives (R54, R55, R68). -/
def ClockLaw (s : State) : Prop :=
  (s.clock.status = .unset → s.clock.seconds = 0) ∧ s.clock.run ≤ 4294967295
    ∧ s.clock.drawLimit = drawLimitOf s.tables.reach.localDraw s.clock.curtail

/-- Two order records may stand in one table: tags ascend, and windows on one turnout do not overlap (R70). -/
def ordersApart (a b : OrderRec) : Prop :=
  a.tag < b.tag ∧ (a.turnout = b.turnout → b.stop ≤ a.start ∨ a.stop ≤ b.start)

/-- The laws of the order table (R70). -/
def OrderLaw (s : State) : Prop :=
  s.orders.table.length ≤ 48 ∧ s.orders.table.Pairwise ordersApart
    ∧ ∀ o ∈ s.orders.table, 1 ≤ o.tag ∧ o.tag ≤ 255

/-- The first half of the law of the carriage list, its order, and the range of its keys (R97). -/
def CarriageLaw (s : State) : Prop :=
  s.carriage.list.length ≤ 64
    ∧ s.carriage.list.Pairwise
        (fun a b => a.originReach < b.originReach ∨ (a.originReach = b.originReach ∧ a.originTag < b.originTag))
    ∧ ∀ r ∈ s.carriage.list, r.originReach ≤ 249 ∧ r.originTag ≤ 255

/-- The law of the turnout (R87): a gate commanded to a nonzero opening has a RUNNING order on its turnout. With it
stand what keeps it: a gate in CLOSED or FAULT is commanded 0, and an unassigned part holds no order. -/
def TurnoutLaw (s : State) : Prop :=
  (∀ t, (getAt s.gates t).commanded ≠ 0 → ∃ o ∈ s.orders.table, o.turnout = t ∧ isRunningRec o = true)
    ∧ (∀ t, (getAt s.gates t).state = .closed ∨ (∃ c, (getAt s.gates t).state = .fault c) →
        (getAt s.gates t).commanded = 0)
    ∧ (ownReach s = 0 → s.orders.table = [])

end Sys2Proof.Safety
end

