-- ==== Sys2Proof/Certificates/Slice0/Obligations.lean ====
section
/-! DEFINITION. Certificates/Slice0/Obligations.lean: the statements for the provers. -/

open Sys2Proof Sys2Proof.Machine Sys2Proof.Safety

/-! ## Steps and commands -/

/-- A step takes the command at the front of the queue and runs it on the queue's rest. On an empty queue the block
idles, which is the model's own choice (log 2). -/
def Obligations.StepTakesTheFrontCommand : Prop :=
  (∀ (c : Instr) (rest : List Instr) (s : State),
      step { s with pending := c :: rest } = exec c { s with pending := rest })
    ∧ ∀ s : State, s.pending = [] → step s = .next s

/-- Every command answers a next state and leaves the queue alone. While the part is stopped or loading, every command
but those of the supply monitor and the end of loading changes nothing. -/
def Obligations.EveryCommandAnswersNext : Prop :=
  ∀ (c : Instr) (s : State), ∃ t, exec c s = .next t ∧ t.pending = s.pending
    ∧ (isRunning s = false → takenWhileStopped c = false → t = s)

/-- A frame command is the router's work on the frame it names, whatever the part's reach number (the model's reading,
log 1). -/
def Obligations.FrameCommandsAreRouted : Prop :=
  ∀ (m : Bool) (b : List Byte) (src dst : Addr) (s : State), Runs s →
    let n := ownReach s
    let down := fun (station kind : Nat) => Host.Outcome.next (φ := Fault) (ρ := Refusal)
      (work .d (mkFrame ⟨n, 0⟩ ⟨n, station⟩ kind b m) s)
    let call := fun (broadcast : Bool) (kind : Nat) => Host.Outcome.next (φ := Fault) (ρ := Refusal)
      (work .u (mkFrame (if broadcast then ⟨255, 0⟩ else ⟨n, 0⟩) ⟨0, 0⟩ kind b m) s)
    let pass := fun (p : Port) (onto : Addr) (kind : Nat) => Host.Outcome.next (φ := Fault) (ρ := Refusal)
      (work p (mkFrame onto src kind b m) s)
    (∀ t : Turnout, exec (.order t m b) s = down (t.val + 1) 0x21 ∧ exec (.orderCancel t m b) s = down (t.val + 1) 0x22
        ∧ exec (.gateReport t m b) s = down (t.val + 1) 0x32)
    ∧ (∀ x : Station, exec (.headReading x m b) s = down (x.val + 1) 0x42)
    ∧ (∀ broadcast, exec (.time broadcast m b) s = call broadcast 0x61
        ∧ exec (.frostCall broadcast m b) s = call broadcast 0x62
        ∧ exec (.curtail broadcast m b) s = call broadcast 0x63)
    ∧ exec (.confirmAtOrigin src m b) s = pass .u ⟨n, 0⟩ 0x52
    ∧ exec (.refuseAtOrigin src m b) s = pass .u ⟨n, 0⟩ 0x53
    ∧ exec (.confirmPassing src dst m b) s = pass .u dst 0x52
    ∧ exec (.refusePassing src dst m b) s = pass .u dst 0x53
    ∧ exec (.demand src dst m b) s = pass .d dst 0x51
    ∧ exec (.release src dst m b) s = pass .d dst 0x54

/-! ## The line ports -/

/-- A pulse is named by the window that contains its width; a pulse that saturates is unclassified at that moment, which is
a symbol error in IDLE and in FRAME, and the inactive edge that ends it gives no second symbol (R2, R3, R5, R7). In
DISCARD see EndGapClosesTheFrame. -/
def Obligations.PulsesAreClassified : Prop :=
  (∀ (t : LineTiming) (w : Nat), timingApart t = true →
      (t.lead.lo ≤ w ∧ w ≤ t.lead.hi → classify t w = .lead)
      ∧ (t.mark.lo ≤ w ∧ w ≤ t.mark.hi → classify t w = .mark)
      ∧ (t.one.lo ≤ w ∧ w ≤ t.one.hi → classify t w = .one)
      ∧ (t.zero.lo ≤ w ∧ w ≤ t.zero.hi → classify t w = .zero)
      ∧ ((∀ v ∈ [t.lead, t.mark, t.one, t.zero], w < v.lo ∨ v.hi < w) → classify t w = .unclassified))
    ∧ (∀ (p : Port) (s : State), PulseEnds p s →
        ((unitAt p s).receiver = .idle ∨ ∃ bytes bits mark, (unitAt p s).receiver = .frame bytes bits mark) →
        exec (.captureSaturation p) s =
          .next (symbolError p (mapUnit p (fun x => { x with counter := 65535, receiver := .discard }) s)))
    ∧ ∀ (p : Port) (w : Nat) (s : State), Runs s → (unitAt p s).active = true → (unitAt p s).inFlight = none →
        (unitAt p s).counter = 65535 →
        exec (.inactiveEdge p w) s =
          .next (mapUnit p (fun x => { x with counter := 0, active := false, gapRaised := false }) s)

/-- R5, R6 and R7. A receiver in IDLE opens a frame at a LEAD, counts one symbol error for any other symbol and passes to
DISCARD, and stays in IDLE at an end gap. A receiver in FRAME appends bits, completes a byte at its eighth bit, takes
one MARK directly after the LEAD, and counts an error and passes to DISCARD on everything else, the forty-fifth byte
included. -/
def Obligations.ReceiverTakesSymbols : Prop :=
  (∀ (p : Port) (s : State), (unitAt p s).receiver = .idle →
     (∀ w, PulseEnds p s → classify s.tables.timing w = .lead →
         exec (.inactiveEdge p w) s = .next (afterPulse (.frame [] [] false) p s))
     ∧ (∀ w, PulseEnds p s → classify s.tables.timing w ≠ .lead →
         exec (.inactiveEdge p w) s = .next (symbolError p (afterPulse .discard p s)))
     ∧ (GapComes p s → exec (.endGap p) s = .next (afterGap p s)))
    ∧ (∀ (p : Port) (w : Nat) (s : State) (bytes : List Byte) (bits : List Bool) (mark : Bool),
        PulseEnds p s → (unitAt p s).receiver = .frame bytes bits mark → bits.length ≤ 7 →
        (∀ b : Bool, classify s.tables.timing w = (if b then .one else .zero) →
            (bits.length < 7 →
              exec (.inactiveEdge p w) s = .next (afterPulse (.frame bytes (bits ++ [b]) mark) p s))
            ∧ (bits.length = 7 → bytes.length < 44 →
              exec (.inactiveEdge p w) s =
                .next (afterPulse (.frame (bytes ++ [byteOfBits (bits ++ [b])]) [] mark) p s))
            ∧ (bits.length = 7 → 44 ≤ bytes.length →
              exec (.inactiveEdge p w) s = .next (framingError p (afterPulse .discard p s))))
        ∧ (classify s.tables.timing w = .mark →
            (bytes = [] ∧ bits = [] ∧ mark = false →
              exec (.inactiveEdge p w) s = .next (afterPulse (.frame [] [] true) p s))
            ∧ (¬ (bytes = [] ∧ bits = [] ∧ mark = false) →
              exec (.inactiveEdge p w) s = .next (symbolError p (afterPulse .discard p s))))
        ∧ (classify s.tables.timing w = .lead ∨ classify s.tables.timing w = .unclassified →
            exec (.inactiveEdge p w) s = .next (symbolError p (afterPulse .discard p s))))

/-- R8, R9, R11 and R13. At an end gap a whole frame that passes acceptance joins the holding or, with two frames held,
is an overrun; a frame that fails acceptance is a check error; a partial byte is a framing error; DISCARD returns to
IDLE and counts nothing, as it ignores every symbol. -/
def Obligations.EndGapClosesTheFrame : Prop :=
  (∀ (p : Port) (s : State), GapComes p s →
     (∀ bytes bits mark, (unitAt p s).receiver = .frame bytes bits mark →
       (bits ≠ [] → exec (.endGap p) s = .next (framingError p (afterGap p s)))
       ∧ (∀ dst src kind body, bits = [] → FrameFits dst src kind body →
           bytes = frameBytes (mkFrame dst src kind body mark) →
           ((unitAt p s).holding.length < 2 →
             exec (.endGap p) s =
               .next (mapUnit p (fun x => { x with holding := x.holding ++ [mkFrame dst src kind body mark] })
                 (afterGap p s)))
           ∧ (2 ≤ (unitAt p s).holding.length →
             exec (.endGap p) s =
               .next (raise .lineFault
                 (count p (fun c => { c with overruns := min 65535 (c.overruns + 1) }) (afterGap p s)))))
       ∧ (bits = [] →
           (bytes.length < 8 ∨ 44 < bytes.length ∨ 36 < field bytes 5 1 ∨ bytes.length ≠ field bytes 5 1 + 8
             ∨ (crc16 (bytes.take (bytes.length - 2))).toNat ≠ field bytes (bytes.length - 2) 2) →
           exec (.endGap p) s =
             .next (raise .lineFault
               (count p (fun c => { c with checkErrors := min 65535 (c.checkErrors + 1) }) (afterGap p s)))))
     ∧ ((unitAt p s).receiver = .discard → exec (.endGap p) s = .next (afterGap p s)))
    ∧ (∀ (p : Port) (s : State), PulseEnds p s → (unitAt p s).receiver = .discard →
        (∀ w, exec (.inactiveEdge p w) s = .next (afterPulse .discard p s))
        ∧ exec (.captureSaturation p) s = .next (mapUnit p (fun x => { x with counter := 65535 }) s))

/-- R2 and R24 to R27. ACTIVE_EDGE restarts the counter; TRANSMIT_END ends the transmission, the quiet time having
counted the interval after the last bit; TALKER_CLASH discards the frame, counts one clash, raises LINE FAULT, makes the
next transmission wait and leaves the receiver in DISCARD. TRANSMIT_START finds the quiet time. Where the end gap of the
interval is not yet raised and is now reached, it is raised first. Then the port begins transmitting the head of its queue
when the quiet time has reached the end gap, 500 units more for an unmarked head, and the clash wait when one applies; with
less, or with an empty queue, nothing begins. The symbol widths are the midpoints of the windows, rounded down. On D the
next waiting GATE SET is then placed (R131). That the clash wait is computed from the own reach number at the beginning of
the transmission is the model's reading (log 29). -/
def Obligations.TransmissionsBeginEndAndClash : Prop :=
  (∀ (p : Port) (s : State), Runs s →
     ((unitAt p s).inFlight = none →
       exec (.activeEdge p) s =
         .next (mapUnit p (fun x => { x with counter := 0, active := true, gapRaised := false }) s))
     ∧ ((unitAt p s).inFlight.isSome = true →
       exec (.transmitEnd p) s =
         .next (mapUnit p (fun x => { x with
           inFlight := none, counter := 100, active := false, gapRaised := false }) s)
       ∧ exec (.talkerClash p) s =
         .next (raise .lineFault
           (mapUnit p (fun x => { x with
             inFlight := none
             receiver := .discard
             clashWait := true
             counter := 0
             active := true
             gapRaised := false
             counts := { x.counts with clashes := min 65535 (x.counts.clashes + 1) } }) s))))
    ∧ ∀ (p : Port) (quiet : Nat) (s : State),
        Runs s → (unitAt p s).active = false → (unitAt p s).inFlight = none →
        let t := s.tables.timing
        let n := max (unitAt p s).counter (min quiet 65535)
        let counted := mapUnit p (fun x => { x with counter := n }) s
        let need := fun head : Frame => t.endGap + (if head.marked then 0 else 500)
          + (if (unitAt p s).clashWait then (1 + ownReach s % 8) * 125 else 0)
        ((unitAt p s).gapRaised = false → n < t.endGap → exec (.transmitStart p quiet) s = .next counted)
        ∧ ((unitAt p s).gapRaised = false → t.endGap ≤ n → ∀ y, exec (.endGap p) counted = .next y →
            exec (.transmitStart p quiet) s = exec (.transmitStart p quiet) y)
        ∧ ((unitAt p s).gapRaised = true → (unitAt p s).queue = [] → exec (.transmitStart p quiet) s = .next counted)
        ∧ ∀ head rest, (unitAt p s).gapRaised = true → (unitAt p s).queue = head :: rest →
            (n < need head → exec (.transmitStart p quiet) s = .next counted)
            ∧ (need head ≤ n →
              let begun := mapUnit p (fun x => { x with
                queue := rest
                inFlight := some ⟨head, (t.lead.lo + t.lead.hi) / 2, (t.mark.lo + t.mark.hi) / 2,
                  (t.one.lo + t.one.hi) / 2, (t.zero.lo + t.zero.hi) / 2⟩
                clashWait := false
                counter := 0
                active := true
                gapRaised := false }) s
              exec (.transmitStart p quiet) s = .next (match p with | .u => begun | .d => placeWaiting begun))

/-! ## Frames -/

/-- R12 and R11. The same computation over header, body and the check itself gives 0; the check of the nine bytes 31h
to 39h is 29B1h; and a frame laid out as line bytes is accepted and read back with every field as it was. -/
def Obligations.CheckAndAcceptance : Prop :=
  (∀ bs : List Byte, crc16 (bs ++ be 2 (crc16 bs).toNat) = 0)
    ∧ crc16 [0x31, 0x32, 0x33, 0x34, 0x35, 0x36, 0x37, 0x38, 0x39] = 0x29B1
    ∧ ∀ (dst src : Addr) (kind : Nat) (body : List Byte) (mark : Bool), FrameFits dst src kind body →
        acceptFrame (frameBytes (mkFrame dst src kind body mark)) mark = some (mkFrame dst src kind body mark)

/-- What a port transmits, another port's classifier and receiver take whole: the pulses of R25, classified by R3 and
given to a receiver in IDLE by R5 to R7, leave it in FRAME with the frame's bytes and its mark. -/
def Obligations.TransmittedFrameIsReceived : Prop :=
  ∀ (t : LineTiming) (f : Frame), timingInRange t = true → timingApart t = true → f.body.length ≤ 36 →
    (pulses (beginTransmission t f)).foldl (fun r w => (receive r (classify t w)).1) .idle =
      .frame (frameBytes f) [] f.marked

/-! ## Queues, flags, router -/

/-- R21 and R22: a frame joins behind the last frame of its class; at a full queue an unmarked frame is dropped, a
marked one displaces the newest unmarked frame, or is dropped when all eight are marked, and each drop is counted and
raises QUEUE DROP. -/
def Obligations.FrameJoinsOrDrops : Prop :=
  ∀ (p : Port) (f : Frame) (s : State) (ms us : List Frame),
    (unitAt p s).queue = ms ++ us → (∀ g ∈ ms, g.marked = true) → (∀ g ∈ us, g.marked = false) →
    let withQueue := fun q => mapUnit p (fun x => { x with queue := q }) s
    let dropped := fun q => raise .queueDrop (count p
      (fun c => { c with queueDrops := min 65535 (c.queueDrops + 1) }) (withQueue q))
    ((ms ++ us).length < 8 → f.marked = true → place p f s = withQueue (ms ++ f :: us))
    ∧ ((ms ++ us).length < 8 → f.marked = false → place p f s = withQueue (ms ++ us ++ [f]))
    ∧ (8 ≤ (ms ++ us).length → f.marked = false → place p f s = dropped (ms ++ us))
    ∧ (∀ vs last, us = vs ++ [last] → 8 ≤ (ms ++ us).length → f.marked = true →
        place p f s = dropped (ms ++ f :: vs))
    ∧ (us = [] → 8 ≤ ms.length → f.marked = true → place p f s = dropped ms)

/-- R47 and R48: raising a set flag changes nothing; a flag whose enable is clear sets silently; a flag that passes
from clear to set with its enable set sends one unmarked ALERT to 0.0 with the flags as they then stand, its number,
and the clock. -/
def Obligations.FlagIsRaised : Prop :=
  ∀ (k : Flag) (s : State),
    let flags := s.comms.flags ||| (1#16 <<< flagIndex k)
    let set := { s with comms := { s.comms with flags := flags } }
    let body := be 2 flags.toNat ++ be 1 (flagIndex k) ++ be 1 (match s.clock.status with | .unset => 0 | .set => 1)
      ++ be 2 s.clock.period ++ be 3 s.clock.seconds
    (s.comms.flags.getLsbD (flagIndex k) = true → raise k s = s)
    ∧ (s.comms.flags.getLsbD (flagIndex k) = false → s.tables.enables.getLsbD (flagIndex k) = false →
        raise k s = set)
    ∧ (s.comms.flags.getLsbD (flagIndex k) = false → s.tables.enables.getLsbD (flagIndex k) = true →
        raise k s = place .u (mkFrame ⟨0, 0⟩ (ownAddr s) 0x7E body false) set)

/-- R14: the router takes the oldest frame of a holding that contains one; when both do, from the port other than the
one it took from last, U first after a restart; the frame leaves its holding when the router has finished with it. -/
def Obligations.RouterTakesTheNextFrame : Prop :=
  (∀ (p : Port) (f : Frame) (rest : List Frame) (s : State), Runs s → (unitAt p s).holding = f :: rest →
      ((unitAt (otherPort p) s).holding = [] ∨ s.lastTaken = some (otherPort p) ∨ (s.lastTaken = none ∧ p = .u)) →
      exec .routeFrame s = .next (leaveHolding p (work p f { s with lastTaken := some p })))
    ∧ ∀ s : State, s.comms.u.holding = [] → s.comms.d.holding = [] → exec .routeFrame s = .next s

/-- R15: the six cases of an assigned part's U port. In the last, CONFIRM and REFUSE are first taken by the carriage
unit, and DEMAND and RELEASE are returned unchanged (R101). That a broadcast frame is consumed before it is forwarded is
the model's choice (log 13). And R18, of the frames consumed at the U port: CONFIRM and REFUSE addressed to the part from a
reach above it go to the order unit, the district calls from 0.0 to the clock, the eight requests from 0.0 addressed to the
part to the management unit; every other one is dropped with one refused-source count at U. -/
def Obligations.RoutesFromUpstream : Prop :=
  ∀ (f : Frame) (s : State), Assigned s →
    let n := ownReach s
    let d := f.dst.reach
    (d = 255 → work .u f s = forward .d f (deliverUp f s))
    ∧ (d ≠ 255 → 251 ≤ d ∨ 19 ≤ f.dst.station → work .u f s = countMisrouted .u s)
    ∧ (d < n → f.dst.station < 19 → f.src.reach < n → work .u f s = s)
    ∧ (d < n → f.dst.station < 19 → n ≤ f.src.reach → work .u f s = countMisrouted .u s)
    ∧ (d = n → f.dst.station = 0 → work .u f s = deliverUp f s)
    ∧ (d = n → 1 ≤ f.dst.station → f.dst.station ≤ 18 → work .u f s = forward .d f s)
    ∧ (n < d → d ≤ 250 → f.dst.station < 19 →
        work .u f s = forward .d f
          (if d ≤ 249 ∧ f.kind = 0x52 then passConfirm f s
           else if d ≤ 249 ∧ f.kind = 0x53 then passRefuse f s else s))
    ∧ (let answers := d = n ∧ f.src.reach < n
       let call := f.src = ⟨0, 0⟩
       let requests := [0x71, 0x72, 0x74, 0x75, 0x77, 0x78, 0x7A, 0x7C]
       (answers → f.kind = 0x52 → deliverUp f s = takeConfirm f.body s)
       ∧ (answers → f.kind = 0x53 → deliverUp f s = takeRefuse f.body s)
       ∧ (call → f.kind = 0x61 → deliverUp f s = takeTime f.body s)
       ∧ (call → f.kind = 0x62 → deliverUp f s = takeFrostCall f.body s)
       ∧ (call → f.kind = 0x63 → deliverUp f s = takeCurtail f.body s)
       ∧ (call → d = n → f.kind ∈ requests → deliverUp f s = takeRequest f.kind f.body s)
       ∧ (¬ (answers ∧ f.kind ∈ [0x52, 0x53]) → ¬ (call ∧ f.kind ∈ [0x61, 0x62, 0x63]) →
          ¬ (call ∧ d = n ∧ f.kind ∈ requests) → deliverUp f s = countRefusedSource .u s))

/-- R16 and R17. The five cases of an assigned part's D port; and an unassigned part consumes a management request from 0.0
to 250.0 on its U port and forwards every other frame by the other port, changing nothing else. And R18, of the frames
consumed at the D port: ORDER, ORDER CANCEL and GATE REPORT of the turnout stations 1..16 and HEAD READING of the stations
1..18 of the own reach go to their units; every other one is dropped with one refused-source count at D. -/
def Obligations.RoutesFromDownstreamOrUnassigned : Prop :=
  (∀ (f : Frame) (s : State), Assigned s →
     let n := ownReach s
     let d := f.dst.reach
     (n < d → work .d f s = countMisrouted .d s)
     ∧ (d ≤ n → 19 ≤ f.dst.station → work .d f s = countMisrouted .d s)
     ∧ (d = n → f.dst.station = 0 → work .d f s = deliverDown f s)
     ∧ (d = n → 1 ≤ f.dst.station → f.dst.station ≤ 18 → work .d f s = countMisrouted .d s)
     ∧ (d < n → f.dst.station < 19 → f.kind ≠ 0x51 → f.kind ≠ 0x54 → work .d f s = forward .u f s)
     ∧ (d < n → f.dst.station < 19 → f.kind = 0x51 →
         work .d f s = (match passDemand f s with | (t, some g) => forward .u g t | (t, none) => t))
     ∧ (d < n → f.dst.station < 19 → f.kind = 0x54 →
         work .d f s = forward .u (passRelease f s).2 (passRelease f s).1)
     ∧ (∀ t : Turnout, f.src = ⟨n, t.val + 1⟩ →
         (f.kind = 0x21 → deliverDown f s = takeOrder t f.body s)
         ∧ (f.kind = 0x22 → deliverDown f s = takeCancel t f.body s)
         ∧ (f.kind = 0x32 → deliverDown f s = takeReport t f.body s))
     ∧ (∀ x : Station, f.src = ⟨n, x.val + 1⟩ → f.kind = 0x42 → deliverDown f s = takeHeadReading x f.body s)
     ∧ (¬ (f.src.reach = n ∧ 1 ≤ f.src.station
           ∧ ((f.src.station ≤ 16 ∧ f.kind ∈ [0x21, 0x22, 0x32]) ∨ (f.src.station ≤ 18 ∧ f.kind = 0x42))) →
         deliverDown f s = countRefusedSource .d s))
    ∧ (∀ (f : Frame) (s : State), ownReach s = 0 →
        (f.dst = ⟨250, 0⟩ → f.src = ⟨0, 0⟩ → f.kind ∈ [0x71, 0x72, 0x74, 0x75, 0x77, 0x78, 0x7A, 0x7C] →
            work .u f s = takeRequest f.kind f.body s)
        ∧ (¬ (f.dst = ⟨250, 0⟩ ∧ f.src = ⟨0, 0⟩ ∧ f.kind ∈ [0x71, 0x72, 0x74, 0x75, 0x77, 0x78, 0x7A, 0x7C]) →
            work .u f s = forward .d f s)
        ∧ work .d f s = place .u f s)

/-! ## Management -/

/-- R32 and section 2.5: a request that repeats the stored number and kind gets the stored reply again and nothing
else happens, whatever state the unit is in; while a command is pending every other request but STATUS READ is answered
BUSY, and nothing else happens. The present own address as the source of a repeated reply, and BUSY before the test of the
body, are the model's readings (log 14, log 15). A first reply goes unmarked from the part to 0.0 by the U queue and is stored
with its request number and kind (R31, R32), and REFUSED and DONE are laid out as R33 gives. -/
def Obligations.RepeatsAndPendingCommands : Prop :=
  (∀ (q : Byte) (kind replyKind reason : Nat) (body : List Byte) (s : State),
    let f := mkFrame ⟨0, 0⟩ (ownAddr s) replyKind body false
    answer q kind replyKind body s = place .u f { s with mgmt := { s.mgmt with lastReply := some ⟨q, kind, f⟩ } }
    ∧ refuse q kind reason s = answer q kind 0x7D ([q] ++ be 1 kind ++ be 1 2 ++ be 1 reason) s
    ∧ done q kind s = answer q kind 0x7D ([q] ++ be 1 kind ++ be 1 0) s)
  ∧ ∀ (c : Instr) (kind : Nat) (body : List Byte) (s : State), asRequest c = some (kind, body) → Runs s →
    (∀ r, s.mgmt.lastReply = some r → r.request = requestNumber body → r.kind = kind →
      exec c s = .next (place .u (mkFrame ⟨0, 0⟩ (ownAddr s) r.frame.kind r.frame.body false) s))
    ∧ ((∀ r, s.mgmt.lastReply = some r → ¬ (r.request = requestNumber body ∧ r.kind = kind)) →
        s.mgmt.state ≠ .ready → kind ≠ 0x75 →
        (kind ≠ 0x74 →
          exec c s = .next (place .u
            (mkFrame ⟨0, 0⟩ (ownAddr s) 0x7D ([requestNumber body] ++ be 1 kind ++ be 1 3) false) s))
        ∧ (∀ region, kind = 0x74 → body[1]? = some region →
          exec c s = .next (place .u
            (mkFrame ⟨0, 0⟩ (ownAddr s) 0x7D ([requestNumber body] ++ be 1 kind ++ be 1 3 ++ [region]) false) s)))

/-- R34: a TABLE WRITE is tested in order for its size (MALFORMED 1), its table (NO SUCH TABLE 2), its entry (NO SUCH ENTRY
3), the range of each field (RANGE 4), and then by the tests of its table (reasons 5 to 13, stated table by table in the
statements after this one). A refused one changes nothing but the reply and its record. The ranges are those of section 2.2:
of each field its offset behind the entry number, its length, its lowest and its highest value; a LINE TIMING window's lower
bound is not above its upper one (R42). -/
def Obligations.TableWriteIsTestedInOrder : Prop :=
  ∀ (body : List Byte) (s : State), ActedOn 0x71 (requestNumber body) s →
    let code := field body 1 1
    let entry := field body 2 1
    let sizes := [22, 6, 24, 13, 30, 21, 6, 2]
    let tops := [0, 16, 7, 64, 3, 0, 0, 0]
    let lows := [0, 1, 0, 1, 0, 0, 0, 0]
    let ranges : List (List (Nat × Nat × Nat × Nat)) :=
      [[(0, 1, 0, 249), (1, 2, 0, 30000), (3, 2, 0, 6000), (5, 2, 0, 30000), (7, 2, 0, 7200), (9, 3, 0, 86400),
          (12, 2, 60, 1800), (14, 1, 0, 50), (15, 2, 60, 1800), (17, 1, 1, 20), (18, 3, 604800, 15552000), (21, 1, 0, 3)],
        [(0, 1, 0, 1), (1, 2, 10, 1000), (3, 1, 0, 3), (4, 2, 10, 600)],
        [(2, 2, 0, 6000), (6, 2, 0, 6000), (10, 2, 0, 6000), (14, 2, 0, 6000), (18, 2, 0, 6000), (22, 2, 0, 6000)],
        [(4, 3, 0, 4000000), (7, 1, 0, 1), (8, 1, 0, 3), (9, 1, 0, 1), (10, 3, 0, 100000)],
        [(0, 3, 0, 4000000), (3, 3, 0, 4000000), (6, 3, 0, 4000000), (9, 3, 0, 10000000), (12, 3, 0, 10000000),
          (15, 3, 0, 10000000), (18, 3, 0, 10000000), (21, 3, 0, 10000000), (24, 3, 0, 10000000), (27, 3, 0, 10000000)],
        [(0, 2, 1, 4095), (2, 2, 1, 4095), (4, 2, 1, 4095), (6, 2, 1, 4095), (8, 2, 1, 4095), (10, 2, 1, 4095),
          (12, 2, 1, 4095), (14, 2, 1, 4095), (16, 2, 250, 4095), (18, 1, 1, 30), (19, 2, 100, 5000)],
        [(0, 2, 10, 600), (2, 1, 9, 16), (3, 1, 0, 3), (4, 1, 0, 1), (5, 1, 0, 1)],
        []]
    let value := fun offset length => field body (3 + offset) length
    let outside := (∃ x ∈ ranges.getD (code - 1) [], value x.1 x.2.1 < x.2.2.1 ∨ x.2.2.2 < value x.1 x.2.1)
      ∨ (code = 6 ∧ (value 2 2 < value 0 2 ∨ value 6 2 < value 4 2 ∨ value 10 2 < value 8 2 ∨ value 14 2 < value 12 2))
    let taken := takeRequest 0x71 body s
    let refused := fun reason => refuse (requestNumber body) 0x71 reason s
    (∀ c, asRequest c = some (0x71, body) → exec c s = .next taken)
    ∧ (body.length < 3 ∨ (1 ≤ code ∧ code ≤ 8 ∧ body.length ≠ 3 + sizes.getD (code - 1) 0) → taken = refused 1)
    ∧ (3 ≤ body.length → code = 0 ∨ 8 < code → taken = refused 2)
    ∧ (1 ≤ code → code ≤ 8 → body.length = 3 + sizes.getD (code - 1) 0 →
        (entry < lows.getD (code - 1) 0 ∨ tops.getD (code - 1) 0 < entry → taken = refused 3)
        ∧ (lows.getD (code - 1) 0 ≤ entry → entry ≤ tops.getD (code - 1) 0 →
            (outside → taken = refused 4)
            ∧ (¬ outside → ∀ reason, tryWrite body s = .error reason →
                5 ≤ reason ∧ reason ≤ 13 ∧ taken = refused reason)))

/-- R35 and R36: a REACH write whose fields are in range is tested for REACH IN USE, PERIOD PASSED, CARRIAGE IN USE and
DRAW IN USE in that order; an accepted one replaces the entry, sets the local draw limit by R68 without ending an order,
lets the supply monitor compare with a changed warning level, and is answered DONE from the written reach. In that comparison
(R182, R183) a supply in NORMAL below the new level passes to LOW, with SUPPLY LOW and a snapshot, one in LOW above the new
level + 0.3 V passes to NORMAL, and any other stays. The comparison's outcome and its place before the reply are the model's
readings (log 8, log 17). -/
def Obligations.ReachWrite : Prop :=
  ∀ (r : ReachTable) (q : Byte) (s : State), ActedOn 0x71 q s → reachInRange r = true →
    let held := s.tables.reach
    let limit := drawLimitOf r.localDraw s.clock.curtail
    let inUse := (r.number ≠ held.number ∨ r.travelLag ≠ held.travelLag)
      ∧ (s.orders.table ≠ [] ∨ s.carriage.list ≠ [])
    let passed := s.clock.status = .set ∧ r.periodLength ≤ s.clock.seconds
    let exceeded := ∃ t, now s ≤ t
      ∧ r.capacity < inflowSum r.tailMin held.travelLag s.orders.table s.carriage.list t
    let overdrawn := ∃ t, now s ≤ t ∧ limit < bookedDraw s.orders.table t
    let written := { s with tables := { s.tables with reach := r }, clock := { s.clock with drawLimit := limit } }
    let warn := [10800, 11200, 11600, 12000].getD r.warnChoice 12000
    let level := s.supply.level
    let status := fun st => { written with supply := { s.supply with status := st } }
    let compared :=
      if held.warnChoice = r.warnChoice then written
      else if s.supply.status = .normal ∧ level < warn then requestSnapshot (raise .supplyLow (status .low))
      else if s.supply.status = .low ∧ warn + 300 < level then status .normal
      else written
    let answer := exec (.tableWriteReach q 0 (reachBytes r)) s
    (inUse → answer = .next (refuse q 0x71 10 s))
    ∧ (¬ inUse → passed → answer = .next (refuse q 0x71 13 s))
    ∧ (¬ inUse → ¬ passed → exceeded → answer = .next (refuse q 0x71 11 s))
    ∧ (¬ inUse → ¬ passed → ¬ exceeded → overdrawn → answer = .next (refuse q 0x71 12 s))
    ∧ (¬ inUse → ¬ passed → ¬ exceeded → ¬ overdrawn →
        answer = .next (done q 0x71 compared))

/-- R37, R95 and R130: an accepted TURNOUTS write replaces the entry. Disabling a turnout ends every record on it with
cause DISABLED before the reply; a write that leaves the turnout enabled commands a gate in CLOSED or FAULT to 0, and
from CLOSED the record passes to MOVING with both timers; at an unassigned part that GATE SET is passed over with its changes
(R118); any other write only replaces the entry. The GATE SET's place before the reply is the model's choice (log 17). -/
def Obligations.TurnoutsWrite : Prop :=
  ∀ (t : Turnout) (e : TurnoutEntry) (q : Byte) (s : State), ActedOn 0x71 q s → turnoutInRange e = true →
    let written := { s with tables := { s.tables with turnouts := putAt s.tables.turnouts t e } }
    let commanded := place .d (mkFrame ⟨ownReach s, t.val + 1⟩ ⟨ownReach s, 0⟩ 0x31 (be 2 0) false) written
    let g := getAt s.gates t
    let base := { g with commanded := 0, lastCommand := s.clock.seconds, stamp := s.clock.run }
    let answer := exec (.tableWriteTurnouts q (BitVec.ofNat 8 (t.val + 1)) (turnoutBytes e)) s
    (e.enabled = false → (getAt s.tables.turnouts t).enabled = true →
      answer = .next (done q 0x71 (endTags .disabled (tagsWhere (fun o => o.turnout == t) s) written)))
    ∧ (e.enabled = false → (getAt s.tables.turnouts t).enabled = false → answer = .next (done q 0x71 written))
    ∧ (e.enabled = true → ownReach s ≠ 0 → g.state = .closed →
      answer = .next (done q 0x71 { commanded with
        gates := putAt s.gates t { base with
          state := .moving
          replyTimer := some s.tables.timing.gateReply
          travelTimer := some e.travelLimit }
        gateWaiting := s.gateWaiting.filter fun x => x != t }))
    ∧ (e.enabled = true → ownReach s ≠ 0 → (∃ c, g.state = .fault c) →
      answer = .next (done q 0x71 { commanded with
        gates := putAt s.gates t base
        gateWaiting := s.gateWaiting.filter fun x => x != t }))
    ∧ (e.enabled = true → ownReach s = 0 → answer = .next (done q 0x71 written))
    ∧ (e.enabled = true → g.state = .moving ∨ g.state = .opened → answer = .next (done q 0x71 written))

/-- R39: an ACCOUNTS write is refused DUPLICATE ACCOUNT, then ACCOUNT IN USE; a number put into an empty slot starts its
counters at zero with VOID clear; a deletion leaves factory values; a write that renumbers a slot with VOID clear leaves
the counters; a write that keeps the number leaves the counters, ends with cause DISABLED the records it no longer
serves (R40, R95), and tests the allotment when it lowers a limit (R156), before the reply: where the open volume stands at or
above the limit of a class, ALLOTMENT REACHED is raised and the account's RUNNING records of every such class end with cause
ALLOTMENT. The model's choices in it: that
VOID is no open counter, so a slot whose VOID is set can be deleted or renumbered (log 21); that the DISABLED ends come before
the allotment test (log 17); that ALLOTMENT REACHED is raised before the ends (log 20). -/
def Obligations.AccountsWrite : Prop :=
  ∀ (i : Fin 64) (a : AccountEntry) (q : Byte) (s : State), ActedOn 0x71 q s →
    a.number < 65536 → a.allotment ≤ 4000000 → a.overdraft ≤ 100000 →
    let held := getAt s.tables.accounts i
    let c := getAt s.metering.counters i
    let duplicate := a.number ≠ 0 ∧ ∃ j, j ≠ i ∧ (getAt s.tables.accounts j).number = a.number
    let inUse := held.number ≠ 0 ∧ held.number ≠ a.number
      ∧ ({ c with void := false } ≠ ({} : Counters) ∨ ∃ o ∈ s.orders.table, o.account = held.number)
    let stored := fun (e : AccountEntry) (k : Counters) => { s with
      tables := { s.tables with accounts := putAt s.tables.accounts i e }
      metering := { s.metering with counters := putAt s.metering.counters i k } }
    let answer := exec (.tableWriteAccounts q (BitVec.ofNat 8 (i.val + 1)) (accountBytes a)) s
    (duplicate → answer = .next (refuse q 0x71 8 s))
    ∧ (¬ duplicate → inUse → answer = .next (refuse q 0x71 9 s))
    ∧ (¬ duplicate → ¬ inUse → held.number = 0 → a.number ≠ 0 → answer = .next (done q 0x71 (stored a {})))
    ∧ (¬ duplicate → ¬ inUse → a.number = 0 → answer = .next (done q 0x71 (stored {} {})))
    ∧ (¬ duplicate → ¬ inUse → held.number ≠ 0 → a.number ≠ 0 → held.number ≠ a.number → c.void = false →
        answer = .next (done q 0x71 (stored a c)))
    ∧ (¬ duplicate → held.number ≠ 0 → held.number = a.number →
        let ends := fun o : OrderRec => o.account == a.number
          && ((held.active && !a.active)
            || (held.permitted.getLsbD o.turnout.val && !a.permitted.getLsbD o.turnout.val))
        let ended := endTags .disabled (tagsWhere ends s) (stored a c)
        let limit := fun cls : OrderClass =>
          if cls = .frost ∧ a.frostEligible = true then (a.allotment + a.overdraft) * 1000 else a.allotment * 1000
        let runs := fun o : OrderRec => isRunningRec o && o.account == a.number && decide (limit o.cls ≤ c.openVol)
        (held.allotment ≤ a.allotment → held.overdraft ≤ a.overdraft → answer = .next (done q 0x71 ended))
        ∧ (a.allotment < held.allotment ∨ a.overdraft < held.overdraft →
            ((∀ cls, c.openVol < limit cls) → answer = .next (done q 0x71 ended))
            ∧ ∀ cls, limit cls ≤ c.openVol →
                answer = .next (done q 0x71
                  (endTags .allotment ((ended.orders.table.filter runs).map (·.tag)) (raise .allotmentReached ended)))))

/-- R38, R41, R42 and R43: the tests and the effect of RATING, TARIFF, LINE TIMING, SCAN and ALERT ENABLES writes whose
fields are in range. A RATING write is refused RATING ORDER unless on the whole written curve the heads rise strictly and no
flow is below the one before it; a LINE TIMING write is refused WINDOWS OVERLAP when a unit value lies within two of the four
windows. An accepted LINE TIMING write raises the end gap of each port whose quiet time already stands at the new
end gap (R4), before the reply and on U before D, which is the model's choice (log 17). -/
def Obligations.OtherTableWrites : Prop :=
  ∀ (q : Byte) (s : State), ActedOn 0x71 q s →
    (∀ (e : Fin 8) (h : HalfCurve), halfInRange h = true →
      let rating := putAt s.tables.rating e h
      let low := getAt rating (Fin.ofNat 8 (e.val / 2 * 2))
      let high := getAt rating (Fin.ofNat 8 (e.val / 2 * 2 + 1))
      let points := [low.p1, low.p2, low.p3, low.p4, low.p5, low.p6,
        high.p1, high.p2, high.p3, high.p4, high.p5, high.p6]
      let ordered := ∀ k a b, points[k]? = some a → points[k + 1]? = some b → a.head < b.head ∧ a.flow ≤ b.flow
      let answer := exec (.tableWriteRating q (BitVec.ofNat 8 e.val) (halfBytes h)) s
      (ordered → answer = .next (done q 0x71 { s with tables := { s.tables with rating := rating } }))
      ∧ (¬ ordered → answer = .next (refuse q 0x71 6 s)))
    ∧ (∀ (k : Fin 4) (x : TariffEntry), tariffInRange x = true →
      let answer := exec (.tableWriteTariff q (BitVec.ofNat 8 k.val) (tariffBytes x)) s
      (x.threshold3 < x.threshold2 ∨ x.threshold4 < x.threshold3 → answer = .next (refuse q 0x71 7 s))
      ∧ (x.threshold2 ≤ x.threshold3 → x.threshold3 ≤ x.threshold4 →
          (s.billing.lock = false →
            answer = .next (done q 0x71
              { s with billing := { s.billing with active := putAt s.billing.active k x } }))
          ∧ (∀ y, s.billing.lock = true → s.billing.staged = some y →
            answer = .next (done q 0x71
              { s with billing := { s.billing with staged := some { y with entries := putAt y.entries k x } } }))
          ∧ (s.billing.lock = true → s.billing.staged = none →
            answer = .next (done q 0x71
              { s with billing := { s.billing with
                staged := some ⟨putAt s.billing.active k x, s.billing.edition⟩ } }))))
    ∧ (∀ x : LineTiming, timingInRange x = true →
      let answer := exec (.tableWriteLineTiming q 0 (timingBytes x)) s
      let apart := [x.lead, x.mark, x.one, x.zero].Pairwise fun v w =>
        ¬ ∃ unit, v.lo ≤ unit ∧ unit ≤ v.hi ∧ w.lo ≤ unit ∧ unit ≤ w.hi
      (¬ apart → answer = .next (refuse q 0x71 5 s))
      ∧ (apart →
          (∀ p, (unitAt p s).active = true ∨ (unitAt p s).inFlight.isSome = true ∨ (unitAt p s).gapRaised = true) →
          answer = .next (done q 0x71 { s with tables := { s.tables with timing := x } }))
      ∧ (apart →
          let written := { s with tables := { s.tables with timing := x } }
          let reached := fun (p : Port) (w : State) => (unitAt p w).active = false ∧ (unitAt p w).inFlight = none
            ∧ (unitAt p w).gapRaised = false ∧ x.endGap ≤ (unitAt p w).counter
          ∀ y z : State,
            (reached .u written → exec (.endGap .u) written = .next y) → (¬ reached .u written → y = written) →
            (reached .d y → exec (.endGap .d) y = .next z) → (¬ reached .d y → z = y) →
            answer = .next (done q 0x71 z)))
    ∧ (∀ x : ScanTable, scanInRange x = true →
      exec (.tableWriteScan q 0 (scanBytes x)) s = .next (done q 0x71 { s with tables := { s.tables with scan := x } }))
    ∧ ∀ x : BitVec 16, exec (.tableWriteAlertEnables q 0 (enablesBytes x)) s =
        .next (done q 0x71 { s with tables := { s.tables with enables := x } })

/-- R44: what a TABLE READ of each table, entry and selector answers; the read changes nothing but the reply and its
record. The turnout meters, the gate record (R116), the station record (R132) and the counters of an account are laid out in
the order of their fields; that VOID is sent as 1 when set is the model's reading (log 42). -/
def Obligations.TableReadAnswers : Prop :=
  ((∀ m : Meters, meterBytes m = be 4 m.total ++ be 4 m.credited ++ be 4 m.runOut ++ be 4 m.unordered)
    ∧ (∀ g : GateRec, gateBytes g =
        be 1 (match g.state with | .closed => 0 | .moving => 1 | .opened => 2 | .fault _ => 3) ++ be 2 g.commanded
          ++ be 2 g.reported ++ be 1 (if g.ready = true then 1 else 0) ++ be 3 g.lastCommand
          ++ be 1 (match g.state with | .fault .silent => 1 | .fault .stuck => 2 | .fault .lockedOut => 3 | _ => 0)
          ++ be 2 (match g.runOut with | none => 0 | some account => account))
    ∧ (∀ r : StationRec, stationBytes r =
        be 1 (match r.state with | .new => 0 | .live => 1 | .lost => 2) ++ be 1 r.misses ++ be 2 r.rate ++ be 4 r.ref
          ++ be 3 r.unmetered ++ be 1 r.carry)
    ∧ (∀ c : Counters,
        volumeBytes c = be 4 c.openVol ++ be 4 c.frostVol ++ be 4 c.overdraftVol ++ be 4 c.runOutVol ++ be 2 c.orderCount
        ∧ chargeBytes c = be 4 c.tier1 ++ be 4 c.tier2 ++ be 4 c.tier3 ++ be 4 c.tier4 ++ be 6 c.fixedCharges
            ++ be 6 c.charge ++ be 1 (if c.void = true then 1 else 0)))
  ∧ ∀ (q code entry selector : Byte) (s : State), ActedOn 0x72 q s →
    let read := fun (code entry selector : Nat) =>
      exec (.tableRead [q, BitVec.ofNat 8 code, BitVec.ofNat 8 entry, BitVec.ofNat 8 selector]) s
    let data := fun (code entry selector : Nat) (content : List Byte) =>
      Host.Outcome.next (φ := Fault) (ρ := Refusal)
        (answer q 0x72 0x73
          ([q, BitVec.ofNat 8 code, BitVec.ofNat 8 entry, BitVec.ofNat 8 selector] ++ content) s)
    let no := fun reason => Host.Outcome.next (φ := Fault) (ρ := Refusal) (refuse q 0x72 reason s)
    read 1 0 0 = data 1 0 0 (reachBytes s.tables.reach)
    ∧ read 1 0 1 = data 1 0 1
        (be 4 s.metering.balance.inflow ++ be 4 s.metering.balance.outflow ++ be 4 s.metering.balance.turnouts)
    ∧ (s.metering.record = none → read 1 0 2 = no 14)
    ∧ (∀ r, s.metering.record = some r →
        read 1 0 2 = data 1 0 2 (be 2 r.period ++ be 4 r.inflow ++ be 4 r.outflow))
    ∧ (∀ t : Turnout,
        read 2 (t.val + 1) 0 = data 2 (t.val + 1) 0 (turnoutBytes (getAt s.tables.turnouts t))
        ∧ read 2 (t.val + 1) 1 = data 2 (t.val + 1) 1 (meterBytes (getAt s.metering.meters t))
        ∧ read 2 (t.val + 1) 2 = data 2 (t.val + 1) 2 (gateBytes (getAt s.gates t))
        ∧ (periodEntryOf t s = none → read 2 (t.val + 1) 3 = no 14)
        ∧ ∀ x, periodEntryOf t s = some x →
            read 2 (t.val + 1) 3 = data 2 (t.val + 1) 3 (be 4 x.total ++ be 4 x.unordered ++ be 4 x.unmetered))
    ∧ (∀ e : Fin 8, read 3 e.val 0 = data 3 e.val 0 (halfBytes (getAt s.tables.rating e)))
    ∧ (∀ i : Fin 64,
        read 4 (i.val + 1) 0 = data 4 (i.val + 1) 0 (accountBytes (getAt s.tables.accounts i))
        ∧ read 4 (i.val + 1) 1 = data 4 (i.val + 1) 1 (volumeBytes (getAt s.metering.counters i))
        ∧ read 4 (i.val + 1) 2 = data 4 (i.val + 1) 2 (chargeBytes (getAt s.metering.counters i)))
    ∧ (∀ k : Fin 4, read 5 k.val 0 = data 5 k.val 0 (tariffBytes (getAt s.billing.active k))
        ∧ (s.billing.staged = none → read 5 k.val 1 = no 14)
        ∧ ∀ y, s.billing.staged = some y → read 5 k.val 1 = data 5 k.val 1 (tariffBytes (getAt y.entries k)))
    ∧ read 6 0 0 = data 6 0 0 (timingBytes s.tables.timing)
    ∧ read 7 0 0 = data 7 0 0 (scanBytes s.tables.scan)
    ∧ (∀ x : Station, read 7 (x.val + 1) 0 = data 7 (x.val + 1) 0 (stationBytes (getAt s.scan.stations x)))
    ∧ read 8 0 0 = data 8 0 0 (be 2 s.tables.enables.toNat)
    ∧ (∀ body, requestNumber body = q → body.length ≠ 4 → exec (.tableRead body) s = no 1)
    ∧ (code = 0 ∨ 9 ≤ code.toNat →
        exec (.tableRead [q, code, entry, selector]) s = no 2)
    ∧ (1 ≤ code.toNat → code.toNat ≤ 8 →
        entry.toNat < [0, 1, 0, 1, 0, 0, 0, 0].getD (code.toNat - 1) 0
          ∨ [0, 16, 7, 64, 3, 0, 18, 0].getD (code.toNat - 1) 0 < entry.toNat
          ∨ [2, 3, 0, 2, 1, 0, 0, 0].getD (code.toNat - 1) 0 < selector.toNat →
        exec (.tableRead [q, code, entry, selector]) s = no 3)

/-- R45 and R46: the parts of STATUS DATA, whose body of part 0 is 30 bytes with the request number and the part (log 38),
and the records of ORDER DATA; a part above 2 is NO SUCH ENTRY, a tag or position that no record answers is NO SUCH ORDER. A
read changes nothing but the reply and its record. STATUS READ is answered in every management state (section 2.5), ORDER
READ in READY. A store that is wiping shows an operation in flight (log 11); a delivered volume or a charge beyond its field
is sent as free bytes (log 22). -/
def Obligations.StatusAndOrderReads : Prop :=
  ∀ (q : Byte) (s : State),
    (Runs s → (∀ r, s.mgmt.lastReply = some r → ¬ (r.request = q ∧ r.kind = 0x75)) →
      let part0 := be 2 s.comms.flags.toNat
        ++ be 1 (match s.clock.status with | .unset => 0 | .set => 1) ++ be 2 s.clock.period ++ be 3 s.clock.seconds
        ++ be 1 (if s.supply.status = .low then 1 else 0)
        ++ be 1 (match s.mgmt.restart.kind with
            | .powerOn => 0 | .supplyRecovery => 1 | .commanded => 2 | .wipe => 3)
        ++ be 1 (match s.mgmt.restart.result with | .restored => 0 | .void => 1 | .factory => 2)
        ++ [s.mgmt.restart.factoryTables]
        ++ (match s.clock.frost with
            | none => [0, 0, 0, 0, 0, 0, 0] | some w => [1] ++ be 3 w.start ++ be 3 w.stop)
        ++ be 2 (match s.clock.curtail with | none => 65535 | some limit => limit)
        ++ be 1 (if s.billing.closes = [] then 0 else 1)
        ++ be 1 (match s.billing.lock, s.billing.staged with
            | false, _ => 0 | true, none => 1 | true, some _ => 2)
        ++ be 1 (if s.store.op = none ∧ wiping s = false then 0 else if s.store.waiting = true then 2 else 1)
        ++ be 1 s.orders.table.length ++ be 1 s.carriage.list.length ++ be 1 s.billing.bills.length
        ++ be 1 (match s.mgmt.state with | .ready => 0 | .restartPending => 1 | .wipePending => 2)
      let counters := fun c : LineCounts => be 2 c.symbolErrors ++ be 2 c.framing ++ be 2 c.checkErrors
        ++ be 2 c.overruns ++ be 2 c.clashes ++ be 2 c.misrouted ++ be 2 c.refusedSource ++ be 2 c.queueDrops
      exec (.statusRead [q, 0]) s = .next (answer q 0x75 0x76 ([q, 0] ++ part0) s)
      ∧ ([q, 0] ++ part0).length = 30
      ∧ exec (.statusRead [q, 1]) s = .next (answer q 0x75 0x76 ([q, 1] ++ counters s.comms.u.counts) s)
      ∧ exec (.statusRead [q, 2]) s =
          .next (answer q 0x75 0x76 ([q, 2] ++ counters s.comms.d.counts ++ be 2 s.comms.unmatched) s)
      ∧ (∀ part : Byte, 3 ≤ part.toNat → exec (.statusRead [q, part]) s = .next (refuse q 0x75 3 s))
      ∧ ∀ body, requestNumber body = q → body.length ≠ 2 → exec (.statusRead body) s = .next (refuse q 0x75 1 s))
    ∧ (ActedOn 0x7A q s →
      ∀ v : Byte,
        let data := fun (selector : Byte) (record : List Byte) => Host.Outcome.next (φ := Fault) (ρ := Refusal)
          (answer q 0x7A 0x7B ([q, selector, v] ++ record) s)
        let order := fun o : OrderRec => be 1 o.tag ++ be 1 o.terminal ++ be 1 (o.turnout.val + 1)
          ++ be 1 (match o.cls with | .normal => 0 | .frost => 1)
          ++ be 1 (match o.state with | .provisional _ => 0 | .confirmed _ => 1 | .running _ _ _ => 2)
          ++ be 2 o.account ++ be 2 o.rate ++ be 3 o.start ++ be 3 o.stop
          ++ (match o.state with
              | .provisional d => be 3 d
              | .confirmed k => be 2 k
              | .running k delivered charge => be 2 k ++ be 4 delivered ++ be 6 charge)
        let carriage := fun r : CarriageRec => be 1 r.originReach ++ be 1 r.originTag
          ++ be 1 (match r.cls with | .normal => 0 | .frost => 1)
          ++ be 1 (match r.state with | .tentative _ => 0 | .firm => 1)
          ++ be 3 r.start ++ be 3 r.stop ++ be 2 r.rate
          ++ (match r.state with | .tentative d => be 3 d | .firm => [])
        let fits := fun o : OrderRec => ∀ k delivered charge, o.state = .running k delivered charge →
          delivered < 4294967296 ∧ charge < 281474976710656
        (∀ o, findTag v.toNat s.orders.table = some o → fits o → exec (.orderRead [q, 0, v]) s = data 0 (order o))
        ∧ (∀ o, s.orders.table[v.toNat]? = some o → fits o → exec (.orderRead [q, 1, v]) s = data 1 (order o))
        ∧ (∀ o, (findTag v.toNat s.orders.table = some o → ¬ fits o → exec (.orderRead [q, 0, v]) s =
              .next (answer q 0x7A 0x7B ([q, 0, v] ++ orderBytes s.free o) { s with free := s.free + 10 }))
            ∧ (s.orders.table[v.toNat]? = some o → ¬ fits o → exec (.orderRead [q, 1, v]) s =
              .next (answer q 0x7A 0x7B ([q, 1, v] ++ orderBytes s.free o) { s with free := s.free + 10 })))
        ∧ (∀ r, s.carriage.list[v.toNat]? = some r → exec (.orderRead [q, 2, v]) s = data 2 (carriage r))
        ∧ ((∀ o ∈ s.orders.table, o.tag ≠ v.toNat) → exec (.orderRead [q, 0, v]) s = .next (refuse q 0x7A 15 s))
        ∧ (s.orders.table.length ≤ v.toNat → exec (.orderRead [q, 1, v]) s = .next (refuse q 0x7A 15 s))
        ∧ (s.carriage.list.length ≤ v.toNat → exec (.orderRead [q, 2, v]) s = .next (refuse q 0x7A 15 s))
        ∧ (∀ selector : Byte, 3 ≤ selector.toNat → exec (.orderRead [q, selector, v]) s = .next (refuse q 0x7A 1 s))
        ∧ ∀ body, requestNumber body = q → body.length ≠ 3 → exec (.orderRead body) s = .next (refuse q 0x7A 1 s))

/-- R49: EVENT CLEAR clears every flag named, zeroes the seventeen line counters when the option is 1, and is answered
DONE; no ALERT is sent for it. -/
def Obligations.EventClear : Prop :=
  ∀ (q : Byte) (set : BitVec 16) (s : State), ActedOn 0x77 q s →
    let flags := s.comms.flags &&& ~~~set
    exec (.eventClear ([q] ++ be 2 set.toNat ++ [0])) s =
        .next (done q 0x77 { s with comms := { s.comms with flags := flags } })
    ∧ exec (.eventClear ([q] ++ be 2 set.toNat ++ [1])) s =
        .next (done q 0x77 { s with comms :=
          { u := { s.comms.u with counts := {} }, d := { s.comms.d with counts := {} }, unmatched := 0,
            flags := flags } })
    ∧ ∀ body, requestNumber body = q → (body.length ≠ 4 ∨ 1 < field body 3 1) →
        exec (.eventClear body) s = .next (refuse q 0x77 1 s)

/-- R50, R51 and R52 in READY. RESTART: RESTART PENDING, ACCEPTED, then a snapshot that serves it, begun at once when
the store is idle and waiting otherwise. LOCK TARIFF: the lock is set and the edition rises when it was clear, DONE
either way. WIPE: NOT EMPTY, or WIPE PENDING, ACCEPTED, and the wipe begins with the erasing of ACCOUNT STATE, at once
when the store is idle. The copy of ACCOUNT STATE holds what section 10.1 names as it stands, a LOST station's unmetered
seconds with the gap since it was lost (R145), and the active tariff while the lock is set (R160, R169, R177). That an
operation's copy and the start of its erasing are one step is the model's choice (log 10). -/
def Obligations.CommandsInReady : Prop :=
  (∀ s : State,
    let a := accountCopy s
    a.period = s.clock.period ∧ a.counters = s.metering.counters ∧ a.meters = s.metering.meters
    ∧ a.balance = s.metering.balance ∧ a.bills = s.billing.bills ∧ a.closes = s.billing.closes
    ∧ a.lock = s.billing.lock ∧ a.edition = s.billing.edition
    ∧ a.active = (if s.billing.lock = true then some s.billing.active else none)
    ∧ ∀ x, getAt a.unmetered x =
        (let r := getAt s.scan.stations x
         min 16777215 (r.unmetered + (if r.state = .lost then s.clock.run - r.ref else 0))))
  ∧ ∀ (q : Byte) (s : State), ActedOn 0x7C q s → wiping s = false →
    let accepted := fun m => answer q 0x7C 0x7D [q, 0x7C, 1] { s with mgmt := { s.mgmt with state := m } }
    (s.store.op = none → s.store.nextSeq < 4294967295 →
      let a := accepted .restartPending
      exec (.commandRestart q) s = .next { a with store := { a.store with
        regions := { a.store.regions with accountState := none }
        nextSeq := s.store.nextSeq + 1
        waiting := false
        op := some ⟨⟨s.store.nextSeq, s.clock.period⟩, .accountState (accountCopy s), none, true⟩ } })
    ∧ (s.store.op.isSome = true →
      let a := accepted .restartPending
      exec (.commandRestart q) s = .next { a with store := { a.store with waiting := true } })
    ∧ (s.billing.lock = false →
      exec (.commandLockTariff q) s = .next (done q 0x7C { s with billing := { s.billing with
        lock := true, edition := (s.billing.edition + 1) % 65536 } }))
    ∧ (s.billing.lock = true → exec (.commandLockTariff q) s = .next (done q 0x7C s))
    ∧ (s.billing.bills ≠ [] ∨ s.orders.table ≠ [] ∨ s.carriage.list ≠ [] →
      exec (.commandWipe q) s = .next (refuse q 0x7C 16 s))
    ∧ (s.billing.bills = [] → s.orders.table = [] → s.carriage.list = [] → s.store.op = none →
      let a := accepted .wipePending
      exec (.commandWipe q) s = .next { a with store := { a.store with
        regions := { a.store.regions with accountState := none }
        op := none
        waiting := false
        wipe := some (.erasing .accountState) } })
    ∧ (s.billing.bills = [] → s.orders.table = [] → s.carriage.list = [] → s.store.op.isSome = true →
      let a := accepted .wipePending
      exec (.commandWipe q) s = .next { a with store := { a.store with wipe := some .waiting } })

/-- R181: a STORE COMMIT taken while the store is idle is answered ACCEPTED with its region and begins an operation with
the region's copy and the next write sequence, the region then being incomplete; while an operation is in flight it is
answered BUSY with its region, which is not kept for repeats, and starts nothing. The regions have the codes 1..9; the copy
of a table region is the working copy, that of TARIFF with the staged tariff (R169), that of ACCOUNT STATE the one of
CommandsInReady; the erased region is incomplete, and every other stays as it was (R179). That an operation's copy and the
start of its erasing are one step is the model's choice (log 10). -/
def Obligations.StoreCommitBegins : Prop :=
  ([RegionId.reach, .turnouts, .rating, .accounts, .tariff, .lineTiming, .scan, .alertEnables, .accountState].map regionCode
      = [1, 2, 3, 4, 5, 6, 7, 8, 9]
    ∧ (∀ (r : RegionId) (s : State), copyOf r s =
        match r with
        | .reach => .reach s.tables.reach
        | .turnouts => .turnouts s.tables.turnouts
        | .rating => .rating s.tables.rating
        | .accounts => .accounts s.tables.accounts
        | .tariff => .tariff ⟨s.billing.active, s.billing.staged⟩
        | .lineTiming => .lineTiming s.tables.timing
        | .scan => .scan s.tables.scan
        | .alertEnables => .alertEnables s.tables.enables
        | .accountState => .accountState (accountCopy s))
    ∧ ∀ (r : RegionId) (g : Regions), LacksRegion (eraseRegion r g) r
        ∧ ∀ h i, imageRegion i ≠ r → (HoldsCopy (eraseRegion r g) h i ↔ HoldsCopy g h i))
  ∧ ∀ (q : Byte) (r : RegionId) (s : State), ActedOn 0x74 q s →
    (s.store.op = none → wiping s = false → s.store.nextSeq < 4294967295 →
      let a := answer q 0x74 0x7D ([q, 0x74, 1] ++ be 1 (regionCode r)) s
      exec (.storeCommit ([q] ++ be 1 (regionCode r))) s = .next { a with store := { a.store with
        regions := eraseRegion r a.store.regions
        nextSeq := s.store.nextSeq + 1
        op := some ⟨⟨s.store.nextSeq, s.clock.period⟩, copyOf r s, some q, false⟩ } })
    ∧ (s.store.op.isSome = true →
      exec (.storeCommit ([q] ++ be 1 (regionCode r))) s =
        .next (place .u (mkFrame ⟨0, 0⟩ (ownAddr s) 0x7D ([q, 0x74, 3] ++ be 1 (regionCode r)) false) s))
    ∧ ∀ body, requestNumber body = q → (body.length ≠ 2 ∨ field body 1 1 = 0 ∨ 9 < field body 1 1) →
        exec (.storeCommit body) s = .next (refuse q 0x74 1 s)

/-- R175 and R176: a malformed BILL READ is refused; one of an empty list is EMPTY; a PEEK answers the requested part of the bill at its index and
changes nothing else; a COLLECT removes the oldest bill, answers with the number held after it, and then makes the
completion test, for each of the listed closes in turn, each of them held (what the test does, PeriodCloseIsTaken says). The
two parts of a bill are laid out as section 9.5 gives. -/
def Obligations.BillReads : Prop :=
  ((∀ b : Bill,
      billPart 0 b = be 2 b.account ++ be 2 b.period ++ be 4 b.tier1 ++ be 4 b.tier2 ++ be 4 b.tier3 ++ be 4 b.tier4
        ++ be 4 b.overdraftVol ++ be 4 b.frostVol
      ∧ billPart 1 b = be 2 b.account ++ be 2 b.period ++ be 4 b.runOutVol ++ be 2 b.orderCount ++ be 6 b.fixedCharges
        ++ be 6 b.charge
        ++ be 1 ((if b.heldUntil.isSome = true then 1 else 0) + (if b.void = true then 2 else 0))
        ++ (match b.heldUntil with | none => [] | some (period, seconds) => be 2 period ++ be 3 seconds))
    ∧ ∀ s : State, testAfterCollect s = completionTest true s.billing.closes.length s)
  ∧ ∀ (q part : Byte) (s : State), ActedOn 0x78 q s →
    (∀ body, requestNumber body = q → (body.length ≠ 4 ∨ 1 < field body 1 1 ∨ 1 < field body 3 1) →
      takeRequest 0x78 body s = refuse q 0x78 1 s)
    ∧ (∀ index, 1 < part.toNat → exec (.billReadPeek q index part) s = .next (refuse q 0x78 1 s)
      ∧ exec (.billReadCollect q index part) s = .next (refuse q 0x78 1 s))
    ∧ (part.toNat ≤ 1 → ∀ index, s.billing.bills = [] →
      exec (.billReadPeek q index part) s = .next (answer q 0x78 0x7D [q, 0x78, 5] s)
      ∧ exec (.billReadCollect q index part) s = .next (answer q 0x78 0x7D [q, 0x78, 5] s))
    ∧ (part.toNat ≤ 1 → ∀ (index : Byte) b, s.billing.bills[index.toNat]? = some b →
      exec (.billReadPeek q index part) s =
        .next (answer q 0x78 0x79 ([q, 0, part] ++ be 1 s.billing.bills.length ++ billPart part.toNat b) s))
    ∧ (part.toNat ≤ 1 → ∀ index : Byte, s.billing.bills ≠ [] → s.billing.bills.length ≤ index.toNat →
      exec (.billReadPeek q index part) s = .next (refuse q 0x78 3 s))
    ∧ (part.toNat ≤ 1 → ∀ b rest, s.billing.bills = b :: rest →
      exec (.billReadCollect q 0 part) s =
        .next (testAfterCollect
          (answer q 0x78 0x79 ([q, 1, part] ++ be 1 rest.length ++ billPart part.toNat b)
            { s with billing := { s.billing with bills := rest } }))
      ∧ ∀ index : Byte, index ≠ 0 → exec (.billReadCollect q index part) s = .next (refuse q 0x78 3 s))

/-- Every table entry whose fields are in range is read back from its bytes exactly as it was (section 2.2). -/
def Obligations.TableEntriesRoundTrip : Prop :=
  (∀ r, reachInRange r = true → parseReach (reachBytes r) = some r ∧ (reachBytes r).length = 22)
    ∧ (∀ e, turnoutInRange e = true → parseTurnout (turnoutBytes e) = some e ∧ (turnoutBytes e).length = 6)
    ∧ (∀ h, halfInRange h = true → parseHalf (halfBytes h) = some h ∧ (halfBytes h).length = 24)
    ∧ (∀ a : AccountEntry, a.number < 65536 → a.allotment ≤ 4000000 → a.overdraft ≤ 100000 →
        parseAccount (accountBytes a) = some a ∧ (accountBytes a).length = 13)
    ∧ (∀ t, tariffInRange t = true → parseTariff (tariffBytes t) = some t ∧ (tariffBytes t).length = 30)
    ∧ (∀ t, timingInRange t = true → parseTiming (timingBytes t) = some t ∧ (timingBytes t).length = 21)
    ∧ (∀ t, scanInRange t = true → parseScan (scanBytes t) = some t ∧ (scanBytes t).length = 6)
    ∧ ∀ e : BitVec 16, readEnables (enablesBytes e) = e ∧ (enablesBytes e).length = 2

/-! ## District clock -/

/-- R55, R56 and R57. A tick in UNSET raises run seconds alone. A tick in SET also raises the period seconds, or wraps: the
period seconds less the length, the close of the ended period raised, the period number one higher, and every booked
time of the order unit, the carriage unit and the frost call re-based. Then every booked time that the period seconds
stand at or after has its event raised, each event once, earlier ones keeping their place; in UNSET nothing is raised. A
PROVISIONAL record books its hold deadline, a CONFIRMED one its start, a RUNNING one its end, a TENTATIVE reservation its hold
deadline and a FIRM one its window end. The
events of one advance stand in ascending time; at one second the order unit's ends, hold deadlines and starts, each by tag
(R72), and the carriage unit's in list order (R98). That the wrap re-bases at once, also while an event raised earlier waits
for its unit, is the model's choice (log 4). -/
def Obligations.TickCountsWrapsAndRaises : Prop :=
  (∀ s : State, Runs s →
     let run := min 4294967295 (s.clock.run + 1)
     let len := s.tables.reach.periodLength
     (s.clock.status = .unset → exec .tick s = .next { s with clock := { s.clock with run := run } })
     ∧ (s.clock.status = .set → s.clock.seconds + 1 < len →
         exec .tick s =
           .next (raiseDue { s with clock := { s.clock with run := run, seconds := s.clock.seconds + 1 } }))
     ∧ (s.clock.status = .set → len ≤ s.clock.seconds + 1 →
         exec .tick s = .next (raiseDue { s with
           clock := { s.clock with
             run := run
             seconds := s.clock.seconds + 1 - len
             period := (s.clock.period + 1) % 65536
             frost := s.clock.frost.map fun w => ⟨w.start - len, w.stop - len⟩ }
           billing := { s.billing with raised := s.billing.raised ++ [s.clock.period] }
           orders := { s.orders with table := s.orders.table.map fun o => { o with
             start := o.start - len
             stop := o.stop - len
             state := match o.state with | .provisional d => .provisional (d - len) | st => st } }
           carriage := { s.carriage with list := s.carriage.list.map fun r => { r with
             start := r.start - len
             stop := r.stop - len
             state := match r.state with | .tentative d => .tentative (d - len) | .firm => .firm } } })))
    ∧ (∀ s : State,
        let rank := fun k : OrderEventKind => match k with | .endReached => 0 | .holdDeadline => 1 | .startReached => 2
        (s.clock.status = .unset → raiseDue s = s)
        ∧ (s.clock.status = .set →
            ∃ os cs, raiseDue s = { s with
                clock := { s.clock with frostEndRaised := (raiseDue s).clock.frostEndRaised }
                orders := { s.orders with raised := s.orders.raised ++ os }
                carriage := { s.carriage with raised := s.carriage.raised ++ cs } }
              ∧ (∀ e, e ∈ os ↔ e ∉ s.orders.raised
                  ∧ ∃ o ∈ s.orders.table, (bookedOrder o).1 = e ∧ (bookedOrder o).2 ≤ s.clock.seconds)
              ∧ (∀ e, e ∈ cs ↔ e ∉ s.carriage.raised
                  ∧ ∃ r ∈ s.carriage.list, (bookedCarriage r).1 = e ∧ (bookedCarriage r).2 ≤ s.clock.seconds)
              ∧ (OrderLaw s → os.Nodup ∧ os.Pairwise fun e f => ∀ o ∈ s.orders.table, ∀ x ∈ s.orders.table,
                  ∀ a b, bookedOrder o = (e, a) → bookedOrder x = (f, b) →
                  a < b ∨ (a = b ∧ (rank e.kind < rank f.kind ∨ (e.kind = f.kind ∧ e.tag < f.tag))))
              ∧ (CarriageLaw s → cs.Nodup ∧ cs.Pairwise fun e f => ∀ r ∈ s.carriage.list, ∀ x ∈ s.carriage.list,
                  ∀ a b, bookedCarriage r = (e, a) → bookedCarriage x = (f, b) →
                  a < b ∨ (a = b ∧ (r.originReach < x.originReach
                    ∨ (r.originReach = x.originReach ∧ r.originTag < x.originTag))))
              ∧ ((raiseDue s).clock.frostEndRaised = true ↔ s.clock.frostEndRaised = true
                  ∨ ∃ w, s.clock.frost = some w ∧ w.stop ≤ s.clock.seconds)))
    ∧ (∀ o : OrderRec, bookedOrder o = match o.state with
        | .provisional d => (⟨.holdDeadline, o.tag⟩, d)
        | .confirmed _ => (⟨.startReached, o.tag⟩, o.start)
        | .running _ _ _ => (⟨.endReached, o.tag⟩, o.stop))
    ∧ ∀ r : CarriageRec, bookedCarriage r = match r.state with
        | .tentative d => (⟨.holdDeadline, r.originReach, r.originTag⟩, d)
        | .firm => (⟨.windowEnd, r.originReach, r.originTag⟩, r.stop)

/-- R58 to R63, of a TIME addressed to an assigned part: malformed, rejected, or accepted in UNSET (with the catch-up
close before a later period) and in SET (a step of at most 120 s, forward reaching what it steps over, backward
nothing). A broadcast one is taken alike and then forwarded, in the model's order (log 13). -/
def Obligations.TimeIsTaken : Prop :=
  ∀ (m : Bool) (s : State), Runs s → Assigned s →
    (∀ (body : List Byte) (x : State), exec (.time false m body) s = .next x →
      exec (.time true m body) s = .next (place .d (mkFrame ⟨255, 0⟩ ⟨0, 0⟩ 0x61 body m) x))
    ∧ (∀ body : List Byte, body.length ≠ 5 →
      exec (.time false m body) s = .next (raise .timeRejected (countRefusedSource .u s)))
    ∧ ∀ p x : Nat, p < 65536 → x < 16777216 →
      let taken := exec (.time false m (be 2 p ++ be 3 x)) s
      let ahead := (p + 65536 - s.clock.period) % 65536
      let c := s.clock
      let at' := { c with status := .set, period := p, seconds := x }
      (s.tables.reach.periodLength ≤ x → taken = .next (raise .timeRejected s))
      ∧ (x < s.tables.reach.periodLength → c.status = .unset →
          (32768 ≤ ahead → taken = .next (raise .timeRejected s))
          ∧ (ahead = 0 → taken = .next (raiseDue { s with clock := at' }))
          ∧ (1 ≤ ahead → ahead ≤ 32767 →
              taken = .next (raiseDue { s with
                clock := at'
                billing := { s.billing with raised := s.billing.raised ++ [c.period] } })))
      ∧ (x < s.tables.reach.periodLength → c.status = .set →
          (p ≠ c.period ∨ c.seconds + 120 < x ∨ x + 120 < c.seconds → taken = .next (raise .timeRejected s))
          ∧ (p = c.period → c.seconds < x → x ≤ c.seconds + 120 →
              taken = .next (raiseDue { s with clock := { c with seconds := x } }))
          ∧ (p = c.period → x ≤ c.seconds → c.seconds ≤ x + 120 →
              taken = .next { s with clock := { c with seconds := x } }))

/-- R65 and R66, of a FROST CALL addressed to an assigned part: malformed, call, cancel; a broadcast one is also
forwarded, marked, in the model's order (R15, R23, log 13); and the frost window end that has been reached makes the record absent. -/
def Obligations.FrostCallIsTaken : Prop :=
  ∀ (m : Bool) (s : State), Runs s → Assigned s →
    (∀ (body : List Byte) (x : State), exec (.frostCall false m body) s = .next x →
      exec (.frostCall true m body) s =
        .next (place .d { mkFrame ⟨255, 0⟩ ⟨0, 0⟩ 0x62 body m with marked := true } x))
    ∧ (∀ body : List Byte,
      body.length ≠ 7 ∨ 1 < field body 0 1 ∨ (field body 0 1 = 1 ∧ field body 4 3 ≤ field body 1 3) →
      exec (.frostCall false m body) s = .next (countRefusedSource .u s))
    ∧ (∀ a b : Nat, a < b → b < 16777216 →
        let set := raiseDue { s with clock := { s.clock with frost := some ⟨a, b⟩, frostEndRaised := false } }
        exec (.frostCall false m (be 1 1 ++ be 3 a ++ be 3 b)) s = .next set)
    ∧ (∀ a b : Nat, a < 16777216 → b < 16777216 →
        exec (.frostCall false m (be 1 0 ++ be 3 a ++ be 3 b)) s =
          .next (raiseDue { s with clock := { s.clock with frost := none, frostEndRaised := false } }))
    ∧ (s.clock.frostEndRaised = true →
        exec .frostWindowEndReached s =
          .next { s with clock := { s.clock with frost := none, frostEndRaised := false } })

/-- R67 and R68, of a CURTAIL addressed to an assigned part: the first own pair sets the curtail limit, FFFFh lifts it,
the local draw limit is the smaller of capacity and limit, and only a fall of the limit sheds orders (R94, what shedding
ends SheddingAndBumpingMakeRoom says); a list
without an own pair changes nothing; a body of another size is malformed. A broadcast one is taken alike and then
forwarded, marked, in the model's order (log 13). -/
def Obligations.CurtailIsTaken : Prop :=
  ∀ (m : Bool) (s : State), Runs s → Assigned s →
    (∀ (body : List Byte) (x : State), exec (.curtail false m body) s = .next x →
      exec (.curtail true m body) s =
        .next (place .d { mkFrame ⟨255, 0⟩ ⟨0, 0⟩ 0x63 body m with marked := true } x))
    ∧ (∀ body : List Byte, (body.length % 3 ≠ 0 ∨ body.length < 3 ∨ 36 < body.length) →
      exec (.curtail false m body) s = .next (countRefusedSource .u s))
    ∧ ∀ pairs : List (Nat × Nat), 1 ≤ pairs.length → pairs.length ≤ 12 →
      (∀ p ∈ pairs, p.1 < 256 ∧ p.2 < 65536) →
      let taken := exec (.curtail false m (pairs.flatMap fun p => be 1 p.1 ++ be 2 p.2)) s
      let own := pairs.find? fun p => p.1 == ownReach s
      (own = none → taken = .next s)
      ∧ ∀ k limit, own = some (k, limit) →
          let c := if limit = 65535 then none else some limit
          let draw := if limit = 65535 then s.tables.reach.localDraw else min s.tables.reach.localDraw limit
          let set := { s with clock := { s.clock with curtail := c, drawLimit := draw } }
          (s.clock.drawLimit ≤ draw → taken = .next set) ∧ (draw < s.clock.drawLimit → taken = .next (shed draw set))

/-- R73, R94 and R82. Shedding walks the records in the shedding order: NORMAL before FROST; in a class the PROVISIONAL ones
by descending hold deadline and tag, then the CONFIRMED and RUNNING ones by descending sequence. One that covers a second from
the present on at which a sum in which it is counted exceeds the limit ends CURTAILED, any other is passed over, and ORDERS
SHED is raised when one was ended. Bumping walks the NORMAL records that overlap the FROST record's window in the same order,
and ends BUMPED those that cover a second of it at which the general sum exceeds the local draw limit. After shedding, both sums are within the limit at every second from the present on, and every record left
was in the table before, as it stood. Bumping leaves no second of the FROST record's window at which the general sum
exceeds the local draw limit, provided the frost sum did not exceed it there, and removes no FROST record. -/
def Obligations.SheddingAndBumpingMakeRoom : Prop :=
  (∀ (limit : Nat) (s : State), OrderLaw s →
     (∀ t, now s ≤ t → generalSum (shed limit s).orders.table t ≤ limit
       ∧ frostSum (shed limit s).orders.table t ≤ limit)
     ∧ ∀ o ∈ (shed limit s).orders.table, o ∈ s.orders.table)
    ∧ (∀ (f : OrderRec) (s : State), OrderLaw s →
        (∀ t, f.start ≤ t → t < f.stop → frostSum s.orders.table t ≤ s.clock.drawLimit) →
        (∀ t, f.start ≤ t → t < f.stop → generalSum (bump82 f s).orders.table t ≤ s.clock.drawLimit)
        ∧ ∀ o ∈ s.orders.table, o.cls = .frost → o ∈ (bump82 f s).orders.table)
    ∧ (∀ (table : List OrderRec) (t : Nat),
        generalSum table t = ((table.filter fun o =>
          orderCovers t o && !(isFrost o.cls && isProvisional o)).map (·.rate)).sum
        ∧ frostSum table t = ((table.filter fun o => orderCovers t o && isFrost o.cls).map (·.rate)).sum)
    ∧ (let before := fun a b : OrderRec =>
         (a.cls = .normal ∧ b.cls = .frost)
         ∨ (a.cls = b.cls ∧ match a.state, b.state with
             | .provisional d, .provisional e => e < d ∨ (d = e ∧ b.tag < a.tag)
             | .provisional _, _ => True
             | _, .provisional _ => False
             | _, _ => ∀ x y, sequenceOf a = some x → sequenceOf b = some y → y ≤ x)
       (∀ (limit : Nat) (s : State) (turn : State → OrderRec → State), OrderLaw s →
         (∀ x o,
           let due := ∃ t, now s ≤ t ∧ o.start ≤ t ∧ t < o.stop
             ∧ ((¬ (o.cls = .frost ∧ isProvisional o = true) ∧ limit < generalSum x.orders.table t)
               ∨ (o.cls = .frost ∧ limit < frostSum x.orders.table t))
           (due → turn x o = endOrder .curtailed o x) ∧ (¬ due → turn x o = x)) →
         ∃ walk : List OrderRec, walk.Perm s.orders.table ∧ walk.Pairwise before
           ∧ (let w := walk.foldl turn s
              (w.orders.table.length = s.orders.table.length → shed limit s = w)
              ∧ (w.orders.table.length ≠ s.orders.table.length → shed limit s = raise .ordersShed w)))
       ∧ ∀ (f : OrderRec) (s : State) (turn : State → OrderRec → State), OrderLaw s →
         (∀ x o,
           let due := ∃ t, f.start ≤ t ∧ t < f.stop ∧ o.start ≤ t ∧ t < o.stop
             ∧ s.clock.drawLimit < generalSum x.orders.table t
           (due → turn x o = endOrder .bumped o x) ∧ (¬ due → turn x o = x)) →
         ∃ walk : List OrderRec,
           walk.Perm (s.orders.table.filter fun o =>
             !isFrost o.cls && decide (o.start < f.stop) && decide (f.start < o.stop))
           ∧ walk.Pairwise before ∧ bump82 f s = walk.foldl turn s)

/-- R168, R170 to R172, R174, R145 and R159, of a period close event. A completion bills the slots that hold an account and
an open volume, a charge, an order or VOID, in ascending account number; writes the reach period record of the enabled
turnouts with the gap of a LOST station settled; zeroes counters, meters, balance and unmetered seconds; promotes a staged
tariff; and asks for a snapshot. With an empty close list and room for its bills a close is completed so at once; without
room it is listed and CLOSE HELD is raised. A close that joins behind another is held as it joins, and the completion test is
made; a fifth is not listed (log 23). The test completes the oldest close that has room, again and again, and raises CLOSE HELD
at the first that has none; the bills of a held close carry HELD with the present period number and seconds. -/
def Obligations.PeriodCloseIsTaken : Prop :=
  let needed := fun s : State => (List.finRange 64).filter fun i =>
    let a := getAt s.tables.accounts i
    let c := getAt s.metering.counters i
    decide (a.number ≠ 0 ∧ (c.openVol ≠ 0 ∨ c.charge ≠ 0 ∨ c.orderCount ≠ 0 ∨ c.void = true))
  let made := fun (held : Bool) (p : Nat) (s : State) => (needed s).map fun i =>
    let c := getAt s.metering.counters i
    ({ account := (getAt s.tables.accounts i).number, period := p
       tier1 := c.tier1, tier2 := c.tier2, tier3 := c.tier3, tier4 := c.tier4
       overdraftVol := c.overdraftVol, frostVol := c.frostVol, runOutVol := c.runOutVol
       orderCount := c.orderCount, fixedCharges := c.fixedCharges, charge := c.charge, void := c.void
       heldUntil := if held = true then some (s.clock.period, s.clock.seconds) else none } : Bill)
  let gap := fun (s : State) (r : StationRec) => if r.state = .lost then s.clock.run - r.ref else 0
  let completed := fun (held : Bool) (p : Nat) (rest : List Nat) (s : State) => requestSnapshot { s with
    metering := { record := some {
      period := p
      entries := tableOf fun t =>
        let m := getAt s.metering.meters t
        let r := getAt s.scan.stations ⟨t.val, by omega⟩
        if (getAt s.tables.turnouts t).enabled = true then
          some ⟨m.total, m.unordered, min 16777215 (r.unmetered + gap s r)⟩
        else none
      inflow := s.metering.balance.inflow
      outflow := s.metering.balance.outflow } }
    scan := { s.scan with stations := tableOf fun x =>
      let r := getAt s.scan.stations x
      { r with ref := if r.state = .lost then s.clock.run else r.ref, unmetered := 0 } }
    billing := { s.billing with
      bills := s.billing.bills ++ sortBy (·.account) (made held p s)
      closes := rest
      active := match s.billing.staged with | none => s.billing.active | some x => x.entries
      staged := none
      edition := match s.billing.staged with
        | none => s.billing.edition | some _ => (s.billing.edition + 1) % 65536 } }
  let room := fun s : State => (needed s).length + s.billing.bills.length ≤ 128
  (∀ (p : Nat) (rest : List Nat) (s : State), Runs s → s.billing.raised = p :: rest →
    let taken := { s with billing := { s.billing with raised := rest } }
    let listed := { s with billing := { s.billing with raised := rest, closes := s.billing.closes ++ [p] } }
    let n := s.billing.closes.length
    (n = 0 → room s → exec .periodClose s = .next (completed false p [] taken))
    ∧ (n = 0 → ¬ room s → exec .periodClose s = .next (raise .closeHeld listed))
    ∧ (1 ≤ n → n ≤ 3 → exec .periodClose s = .next (completionTest true (n + 1) (raise .closeHeld listed)))
    ∧ (4 ≤ n → exec .periodClose s = .next (completionTest true n (raise .closeHeld taken))))
  ∧ (∀ (held : Bool) (k : Nat) (s : State),
      completionTest held 0 s = s
      ∧ (s.billing.closes = [] → completionTest held k s = s)
      ∧ ∀ p rest, s.billing.closes = p :: rest →
          (room s → completionTest held (k + 1) s = completionTest held k (completed held p rest s))
          ∧ (¬ room s → completionTest held (k + 1) s = raise .closeHeld s))
  ∧ ∀ bills : List Bill, (sortBy (·.account) bills).Perm bills
      ∧ (sortBy (·.account) bills).Pairwise fun a b => a.account ≤ b.account

/-! ## Water orders -/

/-- R74 to R78 and R84, of an ORDER at an assigned part that is malformed or fails an admission check: ORDER REPLY REFUSED,
unmarked, with tag 0, the own reach and the reason, and nothing else. The reason is that of the first of the twelve checks
that fails: the clock, then the supply; the account; the turnout; its permission; the rate; the start; the overlap; the frost
call; the allotment; the local draw; the carriage capacity; the table's room. The draw and the inflow sums are
stated second by second, as the spec gives them. In the allotment's sum a RUNNING record whose end has passed while its end
event waits counts 0, a case for which R77 gives no value: that is the model's choice (log 43). -/
def Obligations.OrderIsRefused : Prop :=
  ∀ (t : Turnout) (m : Bool) (body : List Byte) (s : State), Runs s → Assigned s →
    let refused := fun terminal reason => exec (.order t m body) s = .next (
      place .d (mkFrame ⟨ownReach s, t.val + 1⟩ ⟨ownReach s, 0⟩ 0x23
        (be 1 terminal ++ be 1 0 ++ be 1 2 ++ be 1 (ownReach s) ++ be 1 reason) false) s)
    ((body.length ≠ 12 ∨ field body 0 1 = 0 ∨ 1 < field body 3 1 ∨ field body 7 3 < 900 ∨ 259200 < field body 7 3) →
      refused (body.headD 0).toNat 1)
    ∧ ∀ q, parseOrder body = some q →
      (s.clock.status = .unset → refused q.terminal 2)
      ∧ (s.clock.status = .set → s.supply.status ≠ .normal → refused q.terminal 3)
      ∧ (s.clock.status = .set → s.supply.status = .normal →
          ((∀ i, (getAt s.tables.accounts i).number = q.account → q.account ≠ 0 →
            (getAt s.tables.accounts i).active = false) → refused q.terminal 4)
          ∧ ∀ i : Fin 64, q.account ≠ 0 → (getAt s.tables.accounts i).number = q.account →
            (∀ j, (getAt s.tables.accounts j).number = q.account → j = i) →
            (getAt s.tables.accounts i).active = true →
            let a := getAt s.tables.accounts i
            let e := getAt s.tables.turnouts t
            let g := getAt s.gates t
            let r := s.tables.reach
            let stop := q.start + q.duration
            let ready := e.enabled = true ∧ g.ready = true ∧ ∀ c, g.state ≠ .fault c
            let permitted := a.permitted.getLsbD t.val = true
            let rate := 1 ≤ q.rate ∧ q.rate ≤ e.maxRate
            let start := s.clock.seconds + r.orderLead ≤ q.start ∧ q.start ≤ s.clock.seconds + 604800
            let apart := ∀ o ∈ s.orders.table, o.turnout = t → stop ≤ o.start ∨ o.stop ≤ q.start
            let frost := q.cls = .frost →
              a.frostEligible = true ∧ ∃ w, s.clock.frost = some w ∧ w.start ≤ q.start ∧ stop ≤ w.stop
            let volume := (getAt s.metering.counters i).openVol
              + ((s.orders.table.filter fun o => o.account == q.account).map fun o =>
                  if isRunningRec o then o.rate * (o.stop - s.clock.seconds) else o.rate * (o.stop - o.start)).sum
              + q.rate * q.duration
                ≤ (if q.cls = .frost then (a.allotment + a.overdraft) * 1000 else a.allotment * 1000)
            let draw := ∀ x, q.start ≤ x → x < stop →
              (if q.cls = .frost then frostSum s.orders.table x
               else ((s.orders.table.filter (orderCovers x)).map (·.rate)).sum) + q.rate ≤ s.clock.drawLimit
            let inflow := ∀ x, s.clock.seconds ≤ x → q.start - r.travelLag ≤ x → x < stop - r.travelLag →
              inflowSum r.tailMin r.travelLag s.orders.table s.carriage.list x + q.rate ≤ r.capacity
            (¬ ready → refused q.terminal 5)
            ∧ (ready → ¬ permitted → refused q.terminal 6)
            ∧ (ready → permitted → ¬ rate → refused q.terminal 7)
            ∧ (ready → permitted → rate → ¬ start → refused q.terminal 8)
            ∧ (ready → permitted → rate → start → ¬ apart → refused q.terminal 9)
            ∧ (ready → permitted → rate → start → apart → ¬ frost → refused q.terminal 10)
            ∧ (ready → permitted → rate → start → apart → frost → ¬ volume → refused q.terminal 11)
            ∧ (ready → permitted → rate → start → apart → frost → volume → ¬ draw → refused q.terminal 12)
            ∧ (ready → permitted → rate → start → apart → frost → volume → draw → ¬ inflow →
                refused q.terminal 13)
            ∧ (ready → permitted → rate → start → apart → frost → volume → draw → inflow →
                48 ≤ s.orders.table.length → refused q.terminal 14))

/-- R75 to R80: an ORDER that passes the twelve checks is admitted. It takes the next tag and stands PROVISIONAL with
the confirm hold's deadline; PROVISIONAL goes to the station and then a DEMAND toward the office, both marked for a
FROST order. The checks are stated second by second, as the spec gives them. -/
def Obligations.OrderIsAdmitted : Prop :=
  ∀ (t : Turnout) (m : Bool) (q : OrderRequest) (i : Fin 64) (s : State), Runs s → Assigned s →
    1 ≤ q.terminal → q.terminal < 256 → 1 ≤ q.account → q.account < 65536 → q.start < 16777216 →
    900 ≤ q.duration → q.duration ≤ 259200 → q.rate < 65536 →
    let a := getAt s.tables.accounts i
    let e := getAt s.tables.turnouts t
    let g := getAt s.gates t
    let r := s.tables.reach
    let stop := q.start + q.duration
    let frost := q.cls = .frost
    s.clock.status = .set → s.supply.status = .normal →
    a.number = q.account → (∀ j, (getAt s.tables.accounts j).number = q.account → j = i) → a.active = true →
    e.enabled = true → g.ready = true → (∀ c, g.state ≠ .fault c) →
    a.permitted.getLsbD t.val = true → 1 ≤ q.rate → q.rate ≤ e.maxRate →
    s.clock.seconds + r.orderLead ≤ q.start → q.start ≤ s.clock.seconds + 604800 →
    (∀ o ∈ s.orders.table, o.turnout = t → stop ≤ o.start ∨ o.stop ≤ q.start) →
    (frost → a.frostEligible = true ∧ ∃ w, s.clock.frost = some w ∧ w.start ≤ q.start ∧ stop ≤ w.stop) →
    (getAt s.metering.counters i).openVol
      + ((s.orders.table.filter fun o => o.account == q.account).map fun o =>
          if isRunningRec o then o.rate * (o.stop - s.clock.seconds) else o.rate * (o.stop - o.start)).sum
      + q.rate * q.duration ≤ (if frost then (a.allotment + a.overdraft) * 1000 else a.allotment * 1000) →
    (∀ x, q.start ≤ x → x < stop →
      (if frost then frostSum s.orders.table x
       else ((s.orders.table.filter (orderCovers x)).map (·.rate)).sum) + q.rate ≤ s.clock.drawLimit) →
    (∀ x, s.clock.seconds ≤ x → q.start - r.travelLag ≤ x → x < stop - r.travelLag →
      inflowSum r.tailMin r.travelLag s.orders.table s.carriage.list x + q.rate ≤ r.capacity) →
    s.orders.table.length < 48 →
    let tag := nextTag s.orders.tagCounter s.orders.table
    let deadline := s.clock.seconds + r.confirmHold
    let o : OrderRec := ⟨tag, q.terminal, q.account, t, q.cls, q.start, stop, q.rate, .provisional deadline⟩
    let booked := { s with orders := { s.orders with table := insertOrder o s.orders.table, tagCounter := tag } }
    exec (.order t m (be 1 q.terminal ++ be 2 q.account ++ be 1 (classCode q.cls) ++ be 3 q.start ++ be 3 q.duration
        ++ be 2 q.rate)) s =
      .next (raiseDue
        (place .u (mkFrame ⟨0, 0⟩ ⟨ownReach s, 0⟩ 0x51
            (be 1 (ownReach s) ++ be 1 tag ++ be 1 (classCode q.cls) ++ be 3 (q.start - r.travelLag)
              ++ be 3 (stop - r.travelLag) ++ be 2 q.rate ++ be 3 deadline) (isFrost q.cls))
          (place .d (mkFrame ⟨ownReach s, t.val + 1⟩ ⟨ownReach s, 0⟩ 0x23
              (be 1 q.terminal ++ be 1 tag ++ be 1 0 ++ be 3 q.start ++ be 3 stop ++ be 3 deadline)
              (isFrost q.cls))
            booked)))

/-- R71 and R100. With at most 48 records the next tag is one of 1..255 that no record holds, and the smallest such above
the counter, counting on from 255 to 1. A rate fits over a window exactly when, at every second of it that is not before
the present, the inflow sum plus the rate does not exceed the carriage capacity. The inflow sum is the tail minimum, the rates
of the own records in inflow time and those of the reservations (R99). -/
def Obligations.NextTagAndCapacityQuestion : Prop :=
  (∀ (counter : Nat) (table : List OrderRec), counter ≤ 255 → table.length ≤ 48 →
     let tag := nextTag counter table
     1 ≤ tag ∧ tag ≤ 255 ∧ (∀ o ∈ table, o.tag ≠ tag)
       ∧ ∀ x, 1 ≤ x → x ≤ 255 → (∀ o ∈ table, o.tag ≠ x) →
           (tag + 255 - counter - 1) % 255 ≤ (x + 255 - counter - 1) % 255)
    ∧ (∀ (r a b : Nat) (s : State),
        fits r a b s = true ↔ ∀ t, a ≤ t → t < b → s.clock.seconds ≤ t →
          inflowSum s.tables.reach.tailMin s.tables.reach.travelLag s.orders.table s.carriage.list t + r
            ≤ s.tables.reach.capacity)
    ∧ ∀ (tail lag : Nat) (table : List OrderRec) (list : List CarriageRec) (t : Nat),
        inflowSum tail lag table list t = tail
          + ((table.filter fun o => decide (o.start - lag ≤ t) && decide (t < o.stop - lag)).map (·.rate)).sum
          + ((list.filter fun r => decide (r.start ≤ t) && decide (t < r.stop)).map (·.rate)).sum

/-- R81, R82 and R83 at an assigned part. A CONFIRM naming a PROVISIONAL record gives it the next sequence, makes it
CONFIRMED, bumps for a FROST record, and then sends CONFIRMED. With the counter at 65535 the CONFIRMED and RUNNING records
are first renumbered 1 to k in their order of sequence, and the record takes k + 1 (R71). A record in a new state no longer
books its earlier time. A REFUSE removes the record with its
booked time and sends REFUSED with the reason unchanged; a frame that is malformed or names no PROVISIONAL record is counted
as unmatched and changes nothing else. -/
def Obligations.AnswersAtOrigin : Prop :=
  (∀ (tag : Nat) (st : OrderState) (u : OrderUnit), setOrderState tag st u = { u with
      table := u.table.map fun o => if o.tag = tag then { o with state := st } else o
      raised := u.raised.filter fun e => e.tag != tag })
  ∧ (∀ (k : Nat) (o : OrderRec), withSequence k o = { o with state := match o.state with
      | .provisional d => .provisional d | .confirmed _ => .confirmed k | .running _ v c => .running k v c })
  ∧ ∀ (src : Addr) (m : Bool) (s : State), Runs s → Assigned s → src.reach < ownReach s →
    (∀ o d, findTag o.tag s.orders.table = some o → o.state = .provisional d → o.tag < 256 →
      let given := fun (k : Nat) (u : OrderUnit) =>
        { s with orders := setOrderState o.tag (.confirmed k) { u with confCounter := k } }
      let bumped := fun x => match o.cls with | .frost => bump82 o x | .normal => x
      let confirms := fun x => exec (.confirmAtOrigin src m (be 1 (ownReach s) ++ be 1 o.tag)) s =
        .next (raiseDue (place .d (mkFrame ⟨ownReach s, o.turnout.val + 1⟩ ⟨ownReach s, 0⟩ 0x23
          (be 1 o.terminal ++ be 1 o.tag ++ be 1 1 ++ be 3 o.start ++ be 3 o.stop) (isFrost o.cls)) (bumped x)))
      (s.orders.confCounter ≠ 65535 → confirms (given (s.orders.confCounter + 1) s.orders))
      ∧ (s.orders.confCounter = 65535 → OrderLaw s →
          let held := s.orders.table.filter fun x => (sequenceOf x).isSome
          let k := held.length
          ∃ number : Nat → Nat,
            (∀ x ∈ held, 1 ≤ number x.tag ∧ number x.tag ≤ k)
            ∧ (∀ x ∈ held, ∀ y ∈ held, number x.tag = number y.tag → x = y)
            ∧ (∀ x ∈ held, ∀ y ∈ held, ∀ a b, sequenceOf x = some a → sequenceOf y = some b → a < b →
                number x.tag < number y.tag)
            ∧ confirms (given (k + 1) { s.orders with
                table := s.orders.table.map fun x => withSequence (number x.tag) x }))
      ∧ ∀ by' reason : Byte,
        exec (.refuseAtOrigin src m (be 1 (ownReach s) ++ be 1 o.tag ++ [by', reason])) s =
          .next (place .d (mkFrame ⟨ownReach s, o.turnout.val + 1⟩ ⟨ownReach s, 0⟩ 0x23
            (be 1 o.terminal ++ be 1 o.tag ++ be 1 2 ++ [by', reason]) (isFrost o.cls))
            { s with orders := dropOrder o.tag s.orders }))
    ∧ ∀ body : List Byte,
      (body.length ≠ 2 ∨ field body 0 1 ≠ ownReach s
          ∨ (∀ o ∈ s.orders.table, o.tag = field body 1 1 → isProvisional o = false) →
        exec (.confirmAtOrigin src m body) s = .next (countUnmatched s))
      ∧ (body.length ≠ 4 ∨ field body 0 1 ≠ ownReach s
          ∨ (∀ o ∈ s.orders.table, o.tag = field body 1 1 → isProvisional o = false) →
        exec (.refuseAtOrigin src m body) s = .next (countUnmatched s))

/-- R86, of a start event at an assigned part: an order whose end has passed ends COMPLETED; else the allotment check,
the station's readiness and the gate are tested in that order; else the record is RUNNING with its fixed charge entered,
GATE SET with the initial opening is placed, the gate record passes to MOVING with both timers (R118, R119), and STARTED is
sent. A request for a nonzero opening that finds the gate in FAULT sends nothing (R119). How a record ends OrdersEnd says. -/
def Obligations.StartIsTaken : Prop :=
  (∀ (t : Turnout) (opening : Nat) (cls : OrderClass) (s : State), (∃ c, (getAt s.gates t).state = .fault c) →
    requestOpening t opening cls s = s)
  ∧ ∀ (o : OrderRec) (seq : Nat) (rest : List OrderEvent) (i : Fin 64) (s : State), Runs s → Assigned s →
    s.orders.raised = ⟨.startReached, o.tag⟩ :: rest → findTag o.tag s.orders.table = some o →
    o.state = .confirmed seq → findSlot s.tables.accounts o.account = some i →
    let a := getAt s.tables.accounts i
    let g := getAt s.gates o.turnout
    let popped := { s with orders := { s.orders with raised := rest } }
    let needed := (getAt s.metering.counters i).openVol + o.rate * (o.stop - s.clock.seconds)
    let limit := if o.cls = .frost ∧ a.frostEligible = true then (a.allotment + a.overdraft) * 1000
      else a.allotment * 1000
    let passed := o.stop ≤ s.clock.seconds
    let ends := fun cause => exec .startReached s = .next (endOrder cause o popped)
    (passed → ends .completed)
    ∧ (¬ passed → limit < needed → ends .allotment)
    ∧ (¬ passed → needed ≤ limit → g.ready = false → ends .lockedOut)
    ∧ (¬ passed → needed ≤ limit → g.ready = true → (∃ c, g.state = .fault c) → ends .gateFault)
    ∧ (¬ passed → needed ≤ limit → g.ready = true → (∀ c, g.state ≠ .fault c) →
        let fixed := (getAt s.billing.active a.tariffClass).fixedCharge * 1000
        let maxRate := (getAt s.tables.turnouts o.turnout).maxRate
        let opening := max 1 (min 1000 ((o.rate * 1000 + maxRate - 1) / maxRate))
        let c := getAt s.metering.counters i
        let running := { popped with
          orders := setOrderState o.tag (.running seq 0 fixed) popped.orders
          metering := { s.metering with counters := putAt s.metering.counters i { c with
            orderCount := min 65535 (c.orderCount + 1)
            fixedCharges := min 281474976710655 (c.fixedCharges + fixed)
            charge := min 281474976710655 (c.charge + fixed) } } }
        let commanded := { place .d (mkFrame ⟨ownReach s, o.turnout.val + 1⟩ ⟨ownReach s, 0⟩ 0x31 (be 2 opening)
            (isFrost o.cls)) running with
          gates := putAt s.gates o.turnout { g with
            commanded := opening
            lastCommand := s.clock.seconds
            stamp := s.clock.run
            state := .moving
            replyTimer := some s.tables.timing.gateReply
            travelTimer := some (getAt s.tables.turnouts o.turnout).travelLimit }
          gateWaiting := s.gateWaiting.filter fun x => x != o.turnout }
        exec .startReached s =
          .next (raiseDue (place .d (mkFrame ⟨ownReach s, o.turnout.val + 1⟩ ⟨ownReach s, 0⟩ 0x23
            (be 1 o.terminal ++ be 1 o.tag ++ be 1 4 ++ be 3 o.start ++ be 3 o.stop ++ be 2 opening) (isFrost o.cls))
            commanded)))

/-- R85, R87, R88, R90 and R93 at an assigned part, of a record whose delivered volume fits its field. Every end is made
alike: a RUNNING record's gate in MOVING or OPEN gets GATE SET 0 and the account as run-out account, one in CLOSED or FAULT
nothing (R119); the record and its booked times leave the order unit; ENDED with the cause goes to the station; and unless the
cause is COMPLETED, a RELEASE follows. Several ends are made one after another. An end event ends a RUNNING record COMPLETED. A cancel ends the earliest matching record CANCELLED with a
RELEASE besides; one that no record matches, also against an empty table, is refused NO SUCH ORDER, and a malformed one
MALFORMED. A hold deadline removes a PROVISIONAL record with LAPSED, a RELEASE and
ORDER LAPSED, the flag after the frames (log 34, the model's choice). -/
def Obligations.OrdersEnd : Prop :=
  (∀ (cause : EndCause) (s : State), endTags cause [] s = s
    ∧ ∀ tag tags, endTags cause (tag :: tags) s = endTags cause tags
        (match findTag tag s.orders.table with | some x => endOrder cause x s | none => s))
  ∧ (∀ (tag : Nat) (u : OrderUnit), dropOrder tag u = { u with
      table := u.table.filter fun x => x.tag != tag
      raised := u.raised.filter fun e => e.tag != tag })
  ∧ (∀ (t : Turnout) (m : Bool) (s : State), Runs s → Assigned s →
      let refused := fun (terminal reason : Nat) => Host.Outcome.next (φ := Fault) (ρ := Refusal)
        (place .d (mkFrame ⟨ownReach s, t.val + 1⟩ ⟨ownReach s, 0⟩ 0x23
          (be 1 terminal ++ be 1 0 ++ be 1 2 ++ be 1 (ownReach s) ++ be 1 reason) false) s)
      (∀ b0 b1 b2 : Byte,
        (∀ x ∈ s.orders.table, ¬ (x.turnout = t ∧ x.terminal = b0.toNat ∧ x.account = field [b0, b1, b2] 1 2)) →
        exec (.orderCancel t m [b0, b1, b2]) s = refused b0.toNat 16)
      ∧ ∀ body : List Byte, body.length ≠ 3 → exec (.orderCancel t m body) s = refused (body.headD 0).toNat 1)
  ∧ ∀ (o : OrderRec) (rest : List OrderEvent) (s : State), Runs s → Assigned s →
    findTag o.tag s.orders.table = some o → deliveredOf o < 4294967296 →
    let n := ownReach s
    let popped := { s with orders := { s.orders with raised := rest } }
    let closed := fun x : State =>
      let g := getAt x.gates o.turnout
      if isRunningRec o = true ∧ (g.state = .moving ∨ g.state = .opened) then
        { place .d (mkFrame ⟨n, o.turnout.val + 1⟩ ⟨n, 0⟩ 0x31 (be 2 0) (isFrost o.cls)) x with
          gates := putAt x.gates o.turnout { g with
            commanded := 0
            lastCommand := s.clock.seconds
            stamp := s.clock.run
            state := .moving
            replyTimer := some s.tables.timing.gateReply
            travelTimer := some (getAt s.tables.turnouts o.turnout).travelLimit
            runOut := some o.account }
          gateWaiting := x.gateWaiting.filter fun x => x != o.turnout }
      else x
    let without := fun x : State => { x with orders := dropOrder o.tag x.orders }
    let ended := fun (code : Nat) x => place .d (mkFrame ⟨n, o.turnout.val + 1⟩ ⟨n, 0⟩ 0x23
      (be 1 o.terminal ++ be 1 o.tag ++ be 1 5 ++ be 1 code ++ be 3 s.clock.seconds ++ be 4 (deliveredOf o))
      (isFrost o.cls)) (without (closed x))
    let released := fun x => place .u (mkFrame ⟨0, 0⟩ ⟨n, 0⟩ 0x54
      (be 1 n ++ be 1 o.tag ++ be 3 (s.clock.seconds - s.tables.reach.travelLag)) (isFrost o.cls)) x
    (∀ cause : EndCause,
      let code := match cause with
        | .completed => 0 | .cancelled => 1 | .bumped => 2 | .curtailed => 3 | .allotment => 4 | .gateFault => 5
        | .lockedOut => 6 | .disabled => 7
      endOrder cause o s = (if cause = .completed then ended code s else released (ended code s)))
    ∧ (s.orders.raised = ⟨.endReached, o.tag⟩ :: rest → isRunningRec o = true →
      exec .endReached s = .next (ended 0 popped))
    ∧ (∀ d, s.orders.raised = ⟨.holdDeadline, o.tag⟩ :: rest → o.state = .provisional d →
      exec .holdDeadlineReached s = .next (raise .orderLapsed (released
        (place .d (mkFrame ⟨n, o.turnout.val + 1⟩ ⟨n, 0⟩ 0x23 (be 1 o.terminal ++ be 1 o.tag ++ be 1 3) (isFrost o.cls))
          (without popped)))))
    ∧ ∀ m, o.terminal < 256 → o.account < 65536 →
        (∀ x ∈ s.orders.table, x.turnout = o.turnout → x.terminal = o.terminal → x.account = o.account →
          x.tag ≠ o.tag → o.start < x.start) →
        (s.orders.table.Pairwise fun x y => x.tag < y.tag) →
      exec (.orderCancel o.turnout m (be 1 o.terminal ++ be 2 o.account)) s = .next (released (ended 1 s))

/-! ## Carriage -/

/-- R101 to R105, of a DEMAND from below to a reach above, at an assigned part, well formed with its window `a .. b` in
this reach's outflow time: refused for CLOCK UNSET, withheld past its deadline, forwarded rewritten where the record
exists, refused CARRIAGE FULL or CARRIAGE TABLE FULL, or booked TENTATIVE and forwarded rewritten. A refused one is
answered down toward the origin and raises CARRIAGE REFUSED, the flag after the frame (log 34, the model's choice). One that
is not well formed goes on unchanged and counts one as unmatched (R101). That a DEMAND with origin tag 0, which R97 does not
give, is well formed and booked like any other is the model's reading (log 40). -/
def Obligations.DemandPassesUp : Prop :=
  (∀ (src dst : Addr) (m : Bool) (body : List Byte) (s : State), Runs s → Assigned s →
    dst.reach < ownReach s → dst.station < 19 →
    (body.length ≠ 14 ∨ field body 0 1 ≤ ownReach s ∨ 249 < field body 0 1 ∨ 1 < field body 2 1 ∨ field body 9 2 = 0
      ∨ 1000 < field body 9 2 ∨ field body 6 3 < field body 3 3) →
    exec (.demand src dst m body) s = .next (place .u (mkFrame dst src 0x51 body m) (countUnmatched s)))
  ∧ ∀ (src dst : Addr) (m : Bool) (d : DemandBody) (s : State), Runs s → Assigned s →
    dst.reach < ownReach s → dst.station < 19 →
    ownReach s < d.originReach → d.originReach ≤ 249 → d.tag < 256 → d.start ≤ d.stop → d.stop < 16777216 →
    1 ≤ d.rate → d.rate ≤ 1000 → d.holdDeadline < 16777216 →
    let lag := s.tables.reach.travelLag
    let a := d.start - lag
    let b := d.stop - lag
    let key := fun r : CarriageRec => r.originReach = d.originReach ∧ r.originTag = d.tag
    let arrives := exec (.demand src dst m (demandBytes d)) s
    let onward := mkFrame dst src 0x51 (demandBytes { d with start := a, stop := b }) m
    let refused := fun reason => raise .carriageRefused (place .d
      (mkFrame ⟨d.originReach, 0⟩ ⟨ownReach s, 0⟩ 0x53
        (be 1 d.originReach ++ be 1 d.tag ++ be 1 (ownReach s) ++ be 1 reason) (isFrost d.cls)) s)
    let record : CarriageRec := ⟨d.originReach, d.tag, d.cls, a, b, d.rate, .tentative d.holdDeadline⟩
    (s.clock.status = .unset → arrives = .next (refused 2))
    ∧ (s.clock.status = .set → d.holdDeadline ≤ s.clock.seconds → arrives = .next (countUnmatched s))
    ∧ (s.clock.status = .set → s.clock.seconds < d.holdDeadline →
        ((∃ r ∈ s.carriage.list, key r) → arrives = .next (place .u onward s))
        ∧ ((∀ r ∈ s.carriage.list, ¬ key r) → fits d.rate a b s = false → arrives = .next (refused 13))
        ∧ ((∀ r ∈ s.carriage.list, ¬ key r) → fits d.rate a b s = true → 64 ≤ s.carriage.list.length →
            arrives = .next (refused 15))
        ∧ ((∀ r ∈ s.carriage.list, ¬ key r) → fits d.rate a b s = true → s.carriage.list.length < 64 →
            arrives = .next (place .u onward (raiseDue { s with carriage := { s.carriage with
              list := insertBy carriageKey record s.carriage.list } }))))

/-- R107 and R108, of a CONFIRM or REFUSE from above to a reach below, at an assigned part: a TENTATIVE record becomes
FIRM, or is removed, with its booked deadline; a FIRM record or none, or a body that is not well formed (R101), is counted as
unmatched and changes nothing; the frame goes on down unchanged with its mark. -/
def Obligations.AnswersPassDown : Prop :=
  (∀ (src dst : Addr) (m : Bool) (body : List Byte) (s : State), Runs s → Assigned s →
    ownReach s < dst.reach → dst.reach ≤ 249 → dst.station < 19 →
    let foreign := field body 0 1 ≤ ownReach s ∨ 249 < field body 0 1
    (body.length ≠ 2 ∨ foreign → exec (.confirmPassing src dst m body) s =
      .next (place .d (mkFrame dst src 0x52 body m) (countUnmatched s)))
    ∧ (body.length ≠ 4 ∨ foreign → exec (.refusePassing src dst m body) s =
      .next (place .d (mkFrame dst src 0x53 body m) (countUnmatched s))))
  ∧ ∀ (src dst : Addr) (m : Bool) (reach tag : Nat) (by' reason : Byte) (s : State), Runs s → Assigned s →
    ownReach s < dst.reach → dst.reach ≤ 249 → dst.station < 19 →
    ownReach s < reach → reach ≤ 249 → tag < 256 →
    let confirm := be 1 reach ++ be 1 tag
    let refuse := confirm ++ [by', reason]
    let onC := fun x => Host.Outcome.next (φ := Fault) (ρ := Refusal) (place .d (mkFrame dst src 0x52 confirm m) x)
    let onR := fun x => Host.Outcome.next (φ := Fault) (ρ := Refusal) (place .d (mkFrame dst src 0x53 refuse m) x)
    (∀ r d, findCarriage reach tag s = some r → r.state = .tentative d →
      exec (.confirmPassing src dst m confirm) s =
        onC (raiseDue { s with carriage := changeCarriage reach tag (fun r => { r with state := .firm }) s.carriage })
      ∧ exec (.refusePassing src dst m refuse) s =
        onR { s with carriage := dropCarriage reach tag s.carriage })
    ∧ ((∀ r, findCarriage reach tag s = some r → r.state = .firm) →
      exec (.confirmPassing src dst m confirm) s = onC (countUnmatched s)
      ∧ exec (.refusePassing src dst m refuse) s = onR (countUnmatched s))

/-- R110, of a well-formed RELEASE from below to a reach above, at an assigned part: its time is shifted by the lag and
written into the frame that goes on up; a TENTATIVE record is removed; a FIRM one has its window end cut to the shifted
time and booked anew, or is removed when that time is not after its start; none is counted as unmatched. One that is not well
formed goes on unchanged and counts one as unmatched (R101). -/
def Obligations.ReleasePassesUp : Prop :=
  (∀ (src dst : Addr) (m : Bool) (body : List Byte) (s : State), Runs s → Assigned s →
    dst.reach < ownReach s → dst.station < 19 →
    (body.length ≠ 5 ∨ field body 0 1 ≤ ownReach s ∨ 249 < field body 0 1) →
    exec (.release src dst m body) s = .next (place .u (mkFrame dst src 0x54 body m) (countUnmatched s)))
  ∧ ∀ (src dst : Addr) (m : Bool) (reach tag time : Nat) (s : State), Runs s → Assigned s →
    dst.reach < ownReach s → dst.station < 19 → ownReach s < reach → reach ≤ 249 → tag < 256 → time < 16777216 →
    let t := time - s.tables.reach.travelLag
    let body := fun x => be 1 reach ++ be 1 tag ++ be 3 x
    let arrives := exec (.release src dst m (body time)) s
    let onward := fun x => Host.Outcome.next (φ := Fault) (ρ := Refusal) (place .u (mkFrame dst src 0x54 (body t) m) x)
    let removed := { s with carriage := dropCarriage reach tag s.carriage }
    let cut := changeCarriage reach tag (fun r => { r with stop := min r.stop t }) s.carriage
    (findCarriage reach tag s = none → arrives = onward (countUnmatched s))
    ∧ (∀ r d, findCarriage reach tag s = some r → r.state = .tentative d → arrives = onward removed)
    ∧ (∀ r, findCarriage reach tag s = some r → r.state = .firm → t ≤ r.start → arrives = onward removed)
    ∧ ∀ r, findCarriage reach tag s = some r → r.state = .firm → r.start < t →
        arrives = onward (raiseDue { s with carriage := cut })

/-- R112 and R113: when the hold deadline of a TENTATIVE record or the window end of a FIRM one is reached, the record
leaves the list with its booked times; no frame is sent, no flag is raised, and nothing else changes. A record that leaves or
changes, here and in AnswersPassDown and ReleasePassesUp, no longer books its earlier time. -/
def Obligations.CarriageExpires : Prop :=
  (∀ (reach tag : Nat) (u : CarriageUnit),
    dropCarriage reach tag u = { u with
      list := u.list.filter fun r => !(r.originReach == reach && r.originTag == tag)
      raised := u.raised.filter fun e => !(e.originReach == reach && e.originTag == tag) }
    ∧ ∀ f : CarriageRec → CarriageRec, changeCarriage reach tag f u = { u with
      list := u.list.map fun r => if r.originReach = reach ∧ r.originTag = tag then f r else r
      raised := u.raised.filter fun e => !(e.originReach == reach && e.originTag == tag) })
  ∧ ∀ (reach tag : Nat) (rest : List CarriageEvent) (s : State), Runs s →
    let gone := { s with carriage := dropCarriage reach tag s.carriage }
    (s.carriage.raised = ⟨.holdDeadline, reach, tag⟩ :: rest → exec .carriageHoldDeadlineReached s = .next gone)
    ∧ (s.carriage.raised = ⟨.windowEnd, reach, tag⟩ :: rest → exec .windowEndReached s = .next gone)
    ∧ (∀ r ∈ gone.carriage.list, ¬ (r.originReach = reach ∧ r.originTag = tag))
    ∧ ∀ r ∈ s.carriage.list, ¬ (r.originReach = reach ∧ r.originTag = tag) → r ∈ gone.carriage.list

/-! ## Gates -/

/-- R120 and R125: a timer that expires in MOVING makes the record enter FAULT, SILENT for the reply timer and STUCK for
the travel timer: timers stopped, run-out account cleared, GATE SET 0 placed, marked when a FROST order runs on the
turnout, GATE FAULT raised, and a RUNNING order on the turnout ended GATE FAULT. At an unassigned part the GATE SET is passed
over with its changes of the record, and the rest is done (R118). -/
def Obligations.GateTimersExpire : Prop :=
  ∀ (t : Turnout) (s : State), Runs s →
    let g := getAt s.gates t
    let frost := match runningOn t s.orders.table with | some o => isFrost o.cls | none => false
    let broken := fun cause => { g with state := .fault cause, replyTimer := none, travelTimer := none, runOut := none }
    let faulted := fun cause => raise .gateFault
      (if ownReach s = 0 then { s with gates := putAt s.gates t (broken cause) }
       else { place .d (mkFrame ⟨ownReach s, t.val + 1⟩ ⟨ownReach s, 0⟩ 0x31 (be 2 0) frost) s with
        gates := putAt s.gates t { broken cause with
          commanded := 0
          lastCommand := s.clock.seconds
          stamp := s.clock.run }
        gateWaiting := s.gateWaiting.filter fun x => x != t })
    let ordered := fun x => match runningOn t s.orders.table with | some o => endOrder .gateFault o x | none => x
    (g.state = .moving → g.replyTimer.isSome = true →
      exec (.gateReplyTimeout t) s = .next (ordered (faulted .silent)))
    ∧ (g.state = .moving → g.travelTimer.isSome = true →
      exec (.gateTravelTimeout t) s = .next (ordered (faulted .stuck)))

/-- R121 to R125, of a GATE REPORT at an assigned part: malformed; else the record takes opening and readiness and stops
its reply timer. Out of FAULT, a station not ready with a nonzero commanded opening, or a gate at rest off target, makes
the record enter FAULT; a gate at rest on target settles in CLOSED, clearing the run-out account, or OPEN; a moving gate
stays in or passes to MOVING. In FAULT, a report at rest, closed and ready returns it to CLOSED. A station not ready
hands the lockout event, before the gate fault event of a fault entry; each ends the order then RUNNING on the turnout, if
one is, LOCKED OUT or GATE FAULT. -/
def Obligations.GateReportIsTaken : Prop :=
  ∀ (t : Turnout) (m : Bool) (s : State), Runs s → Assigned s →
    (∀ body : List Byte, (body.length ≠ 4 ∨ 1000 < field body 0 2 ∨ 1 < field body 2 1 ∨ 1 < field body 3 1) →
      exec (.gateReport t m body) s = .next (countRefusedSource .d s))
    ∧ ∀ (x : Nat) (ready : Bool), x ≤ 1000 →
      let g := getAt s.gates t
      let still := exec (.gateReport t m (be 2 x ++ [0] ++ flagByte ready)) s
      let moving := exec (.gateReport t m (be 2 x ++ [1] ++ flagByte ready)) s
      let taken := { g with reported := x, ready := ready, replyTimer := none }
      let ends := fun cause y => match runningOn t y.orders.table with | some o => endOrder cause o y | none => y
      let lockout := fun y => if ready then y else ends .lockedOut y
      let becomes := fun r => Host.Outcome.next (φ := Fault) (ρ := Refusal)
        (lockout { s with gates := putAt s.gates t r })
      let frost := match runningOn t s.orders.table with | some o => isFrost o.cls | none => false
      let placed := place .d (mkFrame ⟨ownReach s, t.val + 1⟩ ⟨ownReach s, 0⟩ 0x31 (be 2 0) frost) s
      let faulted := fun cause => Host.Outcome.next (φ := Fault) (ρ := Refusal)
        (ends .gateFault (lockout (raise .gateFault { placed with
          gates := putAt s.gates t { taken with
            state := .fault cause
            travelTimer := none
            runOut := none
            commanded := 0
            lastCommand := s.clock.seconds
            stamp := s.clock.run }
          gateWaiting := s.gateWaiting.filter fun x => x != t })))
      let near := x ≤ g.commanded + 10 ∧ g.commanded ≤ x + 10
      ((∀ c, g.state ≠ .fault c) → ready = false → g.commanded ≠ 0 →
        still = faulted .lockedOut ∧ moving = faulted .lockedOut)
      ∧ ((∀ c, g.state ≠ .fault c) → ready = true ∨ g.commanded = 0 →
        (near → g.commanded = 0 → still = becomes { taken with state := .closed, travelTimer := none, runOut := none })
        ∧ (near → g.commanded ≠ 0 → still = becomes { taken with state := .opened, travelTimer := none })
        ∧ (¬ near → still = faulted .stuck)
        ∧ (g.state = .moving → moving = becomes taken)
        ∧ (g.state ≠ .moving →
          moving = becomes { taken with
            state := .moving, travelTimer := some (getAt s.tables.turnouts t).travelLimit }))
      ∧ ∀ c, g.state = .fault c →
        (x ≤ 10 → ready = true → still = becomes { taken with state := .closed, travelTimer := none, runOut := none })
        ∧ (10 < x ∨ ready = false → still = becomes taken)
        ∧ moving = becomes taken

/-! ## Scan and metering -/

/-- R134, R135, R136 and R139. An expiry in IDLE restarts the interval and begins a scan; an expiry while SCANNING makes
a scan pending and raises SCAN OVERRUN once. A poll reply timeout is a miss: the third in a row makes the record LOST and
raises STATION LOST, a LOST record stays so, and the poll is completed; that the miss is counted first is the model's choice
(log 41). A scan that begins takes the list of the enabled turnout stations, 17 and 18 as SCAN names them, empty while
unassigned; a station that joined or left it becomes NEW with its unmetered seconds, a LOST one that left settled first; an
empty list ends the scan at once. Each poll is one unmarked HEAD POLL with the scan's resolution and settle code, and starts
the timer. A completed poll is followed by the next, or by the scan's end, or by a pending scan. The poll of a scan that goes
on while the part is unassigned goes to U by R20 (log 24). -/
def Obligations.ScanTimersExpire : Prop :=
  (∀ s : State, Runs s → s.scan.interval.isSome = true →
    let restarted := { s with scan := { s.scan with interval := some s.tables.scan.interval } }
    (s.scan.phase = .idle → exec .scanIntervalExpiry s = .next (beginScan restarted))
    ∧ (s.scan.phase ≠ .idle → s.scan.pending = false →
        exec .scanIntervalExpiry s =
          .next (raise .scanOverrun { s with scan := { s.scan with
            interval := some s.tables.scan.interval, pending := true } }))
    ∧ (s.scan.phase ≠ .idle → s.scan.pending = true → exec .scanIntervalExpiry s = .next restarted))
  ∧ (∀ s : State, Runs s → ∀ res settle x rest, s.scan.phase = .scanning res settle x rest → s.scan.outstanding = true →
        s.scan.pollTimer.isSome = true →
        let r := getAt s.scan.stations x
        let with' := fun r => { s with scan := { s.scan with stations := putAt s.scan.stations x r } }
        (r.state ≠ .lost → r.misses < 2 →
          exec .pollReplyTimeout s = .next (completePoll (with' { r with misses := r.misses + 1 })))
        ∧ (r.state ≠ .lost → r.misses = 2 →
          exec .pollReplyTimeout s =
            .next (completePoll (raise .stationLost (with' { r with misses := 3, state := .lost }))))
        ∧ (r.state = .lost → r.misses = 3 → exec .pollReplyTimeout s = .next (completePoll (with' r))))
  ∧ ∀ (s : State) (stations : Vector StationRec 18),
      let listed := fun x : Station => decide (ownReach s ≠ 0)
        && (if h : x.val < 16 then (getAt s.tables.turnouts ⟨x.val, h⟩).enabled
            else if x.val = 16 then s.tables.scan.inflow else s.tables.scan.outflow)
      let list := (List.finRange 18).filter listed
      let polled := fun (x : Station) (res settle : Nat) (rest : List Station) (w : State) =>
        { place (if ownReach w = 0 then .u else .d)
            (mkFrame ⟨ownReach w, x.val + 1⟩ (ownAddr w) 0x41 (be 1 res ++ be 1 settle) false) w with
          scan := { w.scan with
            phase := .scanning res settle x rest
            outstanding := true
            pollTimer := some w.tables.timing.pollReply } }
      let ended := fun w : State => { w with scan := { w.scan with
        phase := .idle, outstanding := false, pollTimer := none } }
      let begun := ended { s with scan := { s.scan with stations := stations, list := list, pending := false } }
      ((∀ x, getAt stations x =
          (let r := getAt s.scan.stations x
           if (x ∈ s.scan.list ↔ x ∈ list) then r
           else { state := .new, misses := 0, rate := 0, ref := s.clock.run, carry := 0,
                  unmetered := if x ∈ list then r.unmetered
                    else min 16777215 (r.unmetered + (if r.state = .lost then s.clock.run - r.ref else 0)) })) →
        (list = [] → beginScan s = begun)
        ∧ ∀ x rest, list = x :: rest →
            beginScan s = polled x s.tables.scan.resolution s.tables.scan.settle rest begun)
      ∧ (∀ res settle x y rest, s.scan.phase = .scanning res settle x (y :: rest) →
          completePoll s = polled y res settle rest s)
      ∧ ∀ res settle x, s.scan.phase = .scanning res settle x [] →
          completePoll s = if s.scan.pending then beginScan s else ended s

/-- R137, R138, R140 to R143, R150 and R151, of a HEAD READING of an assigned part. A reading of no outstanding poll is
dropped and counted; one whose size, resolution or count is wrong is a miss. An accepted one is converted, a head above
the curve raising OFF RATING and a turnout flume below the leak threshold reading 0. A NEW or LOST record becomes LIVE
and credits nothing; a LIVE one ends an interval whose volume, the odd half-litre being carried, goes to its turnout, to
the inflow volume or to the outflow volume. The poll is completed first (log 19). The gate unit takes each rate of a turnout
flume: it trims the gate of a RUNNING order, in OPEN, a trim interval after the last command, when the rate differs by more than
the tolerance and the new opening is another (R127, R128). -/
def Obligations.HeadReadingIsTaken : Prop :=
  ∀ (x : Station) (m : Bool) (s : State), Runs s → Assigned s →
    (∀ (t : Turnout) (measured : Nat),
      let g := getAt s.gates t
      let called := fun o : OrderRec => runningOn t s.orders.table = some o ∧ g.state = .opened
        ∧ s.tables.reach.trimInterval ≤ s.clock.run - g.stamp
        ∧ s.tables.reach.trimTolerance * o.rate < (measured - o.rate + (o.rate - measured)) * 100
      let opening := fun o : OrderRec =>
        max 1 (min 1000 (if measured = 0 then 1000 else g.commanded * o.rate / measured))
      (∀ o, called o → opening o ≠ g.commanded → takeReading t measured s =
        { place .d (mkFrame ⟨ownReach s, t.val + 1⟩ ⟨ownReach s, 0⟩ 0x31 (be 2 (opening o)) (isFrost o.cls)) s with
          gates := putAt s.gates t { g with
            commanded := opening o
            lastCommand := s.clock.seconds
            stamp := s.clock.run
            state := .moving
            replyTimer := some s.tables.timing.gateReply
            travelTimer := some (getAt s.tables.turnouts t).travelLimit }
          gateWaiting := s.gateWaiting.filter fun x => x != t })
      ∧ (∀ o, called o → opening o = g.commanded → takeReading t measured s = s)
      ∧ ((∀ o, ¬ called o) → takeReading t measured s = s))
    ∧ (∀ body : List Byte, (s.scan.outstanding = false ∨ ∀ res settle rest, s.scan.phase ≠ .scanning res settle x rest) →
      exec (.headReading x m body) s = .next (countRefusedSource .d s))
    ∧ ∀ (count res settle : Nat) (rest : List Station), s.scan.outstanding = true →
      s.scan.phase = .scanning res settle x rest →
      (∀ body : List Byte, s.scan.pollTimer.isSome = true →
        (body.length ≠ 3 ∨ field body 2 1 ≠ res ∨ 2 ^ res ≤ field body 0 2) →
        exec (.headReading x m body) s = exec .pollReplyTimeout s)
      ∧ (9 ≤ res → res ≤ 16 → count < 2 ^ res →
        let arrives := exec (.headReading x m (be 2 count ++ be 1 res)) s
        let r := getAt s.scan.stations x
        let head := count * 2 ^ (16 - res)
        let curve : Fin 4 :=
          if h : x.val < 16 then Fin.ofNat 4 (getAt s.tables.turnouts ⟨x.val, h⟩).curve else if x.val = 16 then 2 else 3
        let points := curvePoints s.tables.rating curve
        let flow := curveFlow head points
        let rate := if x.val < 16 then (if flow < s.tables.reach.leak then 0 else flow) else flow * 5
        let off := ∃ p, points.getLast? = some p ∧ p.head < head
        let half := (r.rate + rate) * (s.clock.run - r.ref) + r.carry
        let gap := if r.state = .lost then s.clock.run - r.ref else 0
        let first := { r with
          state := .live
          misses := 0
          rate := rate
          ref := s.clock.run
          carry := 0
          unmetered := min 16777215 (r.unmetered + gap) }
        let next := { r with misses := 0, rate := rate, ref := s.clock.run, carry := half % 2 }
        ∀ seen, (off → seen = raise .offRating s) → (¬ off → seen = s) →
          let after := fun r => completePoll { seen with scan := { s.scan with stations := putAt s.scan.stations x r } }
          (r.state ≠ .live →
            (∀ t : Turnout, x.val = t.val → arrives = .next (takeReading t rate (after first)))
            ∧ (16 ≤ x.val → arrives = .next (after first)))
          ∧ (r.state = .live →
            (∀ t : Turnout, x.val = t.val → arrives = .next (handTurnoutInterval t (half / 2) rate (after next)))
            ∧ (let b := (after next).metering.balance
               (x.val = 16 → arrives = .next { after next with metering := { (after next).metering with
                  balance := { b with inflow := min 4294967295 (b.inflow + half / 2) } } })
               ∧ (x.val = 17 → arrives = .next { after next with metering := { (after next).metering with
                  balance := { b with outflow := min 4294967295 (b.outflow + half / 2) } } }))))

/-- R152 to R155, R164, R165 and R149. A turnout interval goes to the order RUNNING on the turnout; else to the slot of the
gate's run-out account; else, a nonzero one raising UNORDERED FLOW, to nobody. A credited volume joins the open volume, the
frost volume for a FROST order, the run-out volume for run-out water (priced NORMAL), and the tiers it falls in litre by
litre; the charge is the sum over the tiers, the overdraft and the frost surcharge; the delivered volume and charge of the
order, which is RUNNING, rise by the same (R89); the meter total and the component rise together. After a credit the allotment event names the account's
RUNNING records of every class whose limit is reached, when the credit crossed such a limit or such a record runs; it raises
ALLOTMENT REACHED, with the event also where no record runs (log 20), and the records end. The gate unit takes the reading
after a number of the ends that the spec leaves open (log 18). A record whose account no slot holds takes the volume without a
charge (log 28). -/
def Obligations.IntervalIsCreditedToTheOrder : Prop :=
  ∀ (t : Turnout) (v : Nat) (s : State),
    let up := fun x => min 4294967295 x
    let m := getAt s.metering.meters t
    let cut := min v (4294967295 - m.total)
    let metered := fun x : Meters => { s with metering := { s.metering with
      meters := putAt s.metering.meters t { x with total := m.total + cut }
      balance := { s.metering.balance with turnouts := up (s.metering.balance.turnouts + v) } } }
    let inRange := fun (i : Fin 64) (lo hi : Nat) => ((List.range v).filter fun j =>
      decide (lo ≤ (getAt s.metering.counters i).openVol + j)
        && decide ((getAt s.metering.counters i).openVol + j < hi)).length
    let chargeFor := fun (i : Fin 64) (frost : Bool) =>
      let a := getAt s.tables.accounts i
      let k := getAt s.billing.active a.tariffClass
      let top := a.allotment * 1000
      inRange i 0 (min top (k.threshold2 * 1000)) * k.rate1
        + inRange i (k.threshold2 * 1000) (min top (k.threshold3 * 1000)) * k.rate2
        + inRange i (k.threshold3 * 1000) (min top (k.threshold4 * 1000)) * k.rate3
        + inRange i (k.threshold4 * 1000) top * k.rate4
        + ((List.range v).filter fun j => decide (top ≤ (getAt s.metering.counters i).openVol + j)).length
          * k.overdraftRate
        + (if frost then v * k.surcharge else 0)
    let credited := fun (i : Fin 64) (frost runOut : Bool) (w : State) =>
      let a := getAt s.tables.accounts i
      let k := getAt s.billing.active a.tariffClass
      let c := getAt s.metering.counters i
      let top := a.allotment * 1000
      { w with metering := { w.metering with counters := putAt s.metering.counters i { c with
        openVol := up (c.openVol + v)
        frostVol := if frost then up (c.frostVol + v) else c.frostVol
        runOutVol := if runOut then up (c.runOutVol + v) else c.runOutVol
        tier1 := up (c.tier1 + inRange i 0 (min top (k.threshold2 * 1000)))
        tier2 := up (c.tier2 + inRange i (k.threshold2 * 1000) (min top (k.threshold3 * 1000)))
        tier3 := up (c.tier3 + inRange i (k.threshold3 * 1000) (min top (k.threshold4 * 1000)))
        tier4 := up (c.tier4 + inRange i (k.threshold4 * 1000) top)
        overdraftVol := up (c.overdraftVol
          + ((List.range v).filter fun j => decide (top ≤ c.openVol + j)).length)
        charge := min 281474976710655 (c.charge + chargeFor i frost) } } }
    let limit := fun (i : Fin 64) (cls : OrderClass) =>
      let a := getAt s.tables.accounts i
      if cls = .frost ∧ a.frostEligible = true then (a.allotment + a.overdraft) * 1000 else a.allotment * 1000
    let tested := fun (i : Fin 64) (event : Option (List Nat)) =>
      let before := (getAt s.metering.counters i).openVol
      let after := up (before + v)
      let runs := fun x : OrderRec => isRunningRec x && x.account == (getAt s.tables.accounts i).number
        && decide (limit i x.cls ≤ after)
      let called := (∃ cls, limit i cls ≤ after ∧ before < limit i cls) ∨ ∃ x ∈ s.orders.table, runs x = true
      (called → event = some ((s.orders.table.filter runs).map (·.tag))) ∧ (¬ called → event = none)
    let r := creditInterval t v s
    (∀ o, runningOn t s.orders.table = some o →
      let w := metered { m with credited := m.credited + cut }
      let taken := fun charge (x : State) => { x with orders := { x.orders with
        table := x.orders.table.map fun y => if y.tag = o.tag then
            { y with state := match y.state with
              | .running seq delivered soFar => .running seq (delivered + v) (soFar + charge)
              | other => other }
          else y } }
      (∀ i, findSlot s.tables.accounts o.account = some i →
        r.1 = taken (chargeFor i (isFrost o.cls)) (credited i (isFrost o.cls) false w) ∧ tested i r.2)
      ∧ (findSlot s.tables.accounts o.account = none → r = (taken 0 w, none)))
    ∧ (runningOn t s.orders.table = none →
      (∀ account i, (getAt s.gates t).runOut = some account → findSlot s.tables.accounts account = some i →
        r.1 = credited i false true (metered { m with runOut := m.runOut + cut }) ∧ tested i r.2)
      ∧ ((∀ account, (getAt s.gates t).runOut = some account → findSlot s.tables.accounts account = none) →
        let w := metered { m with unordered := m.unordered + cut }
        r = (if v = 0 then w else raise .unorderedFlow w, none)))
    ∧ ∀ measured : Nat,
      (r.2 = none → handTurnoutInterval t v measured s = takeReading t measured r.1)
      ∧ ∀ tags, r.2 = some tags →
          let w := raise .allotmentReached r.1
          ∃ k draws, k ≤ tags.length ∧ handTurnoutInterval t v measured s =
            endTags .allotment (tags.drop k)
              (takeReading t measured (endTags .allotment (tags.take k) { w with free := draws }))

/-- R140: the curve flow is the first point's at or below it, the last point's at or above it, and between two points
the straight line rounded down. -/
def Obligations.RatingCurveIsReadAlongItsLines : Prop :=
  ∀ (r : Vector HalfCurve 8) (c : Fin 4) (h : Nat), curveOrdered (curvePoints r c) = true →
    (∀ p, (curvePoints r c).head? = some p → h ≤ p.head → curveFlow h (curvePoints r c) = p.flow)
    ∧ (∀ p, (curvePoints r c).getLast? = some p → p.head ≤ h → curveFlow h (curvePoints r c) = p.flow)
    ∧ ∀ k p q, (curvePoints r c)[k]? = some p → (curvePoints r c)[k + 1]? = some q → p.head ≤ h → h < q.head →
        curveFlow h (curvePoints r c) = p.flow + (q.flow - p.flow) * (h - p.head) / (q.head - p.head)

/-! ## Store and supply -/

/-- R178 to R181 and R189. An end that passed leaves its region complete, with the operation's header, its copy, the check of
R12 over both and the complete mark; a FAILED end leaves it incomplete and raises STORE FAULT; the other regions stay as they
were. A STORE COMMIT is answered a second time, DONE or FAILED; then the commanded restart that waits for this end begins
(R50), or a waiting wipe, or a waiting snapshot. Each erase of a wipe is followed by the next erase and then the writes; each
write by the next, and the last by the wipe's restart (what the restarts leave RestartLoadsTheStore says). The wipe takes ACCOUNT
STATE and then the codes 1..8; an erasure discards a waiting snapshot; a write is an operation with factory content, whose
header takes the next write sequence and period number 0. A snapshot is an operation with the copy of ACCOUNT STATE, the next
write sequence and the present period number, which serves a pending RESTART; a request for one is discarded by the wipe at
work, begins at an idle store and waits at a busy one (R180). That an operation is settled in one step at its end is the model's
choice (log 10), as are that each erase and write of a wipe ends by a command of its own (log 11), that a snapshot which waits when the
commanded restart's own ends is dropped unbegun (log 44), and that STORE FAULT comes before the second reply (log 34). -/
def Obligations.StoreOperationEnds : Prop :=
  (∀ (op : StoreOp) (s : State), Runs s → s.store.op = some op →
    let regions := fun mark => programRegion mark op.header op.image s.store.regions
    let settled := fun mark => { s with store := { s.store with op := none, regions := regions mark } }
    let ended := fun (passed : Bool) => exec (.storeOperationEnd passed) s
    let reply := fun (code : Byte) (x : State) => match op.commit with
      | none => x
      | some q => place .u (mkFrame ⟨0, 0⟩ (ownAddr s) 0x7D
          ([q, 0x74, code] ++ be 1 (regionCode (imageRegion op.image))) false) x
    let passed := reply 0 (settled true)
    let failed := reply 4 (raise .storeFault (settled false))
    (HoldsCopy (regions true) op.header op.image ∧ LacksRegion (regions false) (imageRegion op.image)
      ∧ ∀ mark, eraseRegion (imageRegion op.image) (regions mark) = eraseRegion (imageRegion op.image) s.store.regions)
    ∧ (s.store.wipe = none → op.servesRestart = false →
      (s.store.waiting = false → ended true = .next passed ∧ ended false = .next failed)
      ∧ (s.store.waiting = true →
          ended true = .next (beginSnapshot passed) ∧ ended false = .next (beginSnapshot failed)))
    ∧ (s.store.wipe = none → op.servesRestart = true →
        ended true = .next (restartReading .commanded passed)
        ∧ ended false = .next (restartReading .commanded failed))
    ∧ (s.store.wipe = some .waiting → op.servesRestart = false →
        ended true = .next (beginErase .accountState passed) ∧ ended false = .next (beginErase .accountState failed))
    ∧ ∀ r, s.store.wipe = some (.writing r) →
        let written := settled true
        let x := raise .storeFault (settled false)
        let noted := { x with store := { x.store with wipeFault := true } }
        (∀ r', nextRegion r = some r' →
          ended true = .next (beginWipeWrite r' written) ∧ ended false = .next (beginWipeWrite r' noted))
        ∧ (r = .alertEnables → ended true = .next (restartWiped written) ∧ ended false = .next (restartWiped noted)))
  ∧ (∀ (r : RegionId) (b : Bool) (s : State), Runs s → s.store.wipe = some (.erasing r) →
      (∀ r', nextRegion r = some r' → exec (.storeOperationEnd b) s = .next (beginErase r' s))
      ∧ (r = .alertEnables → exec (.storeOperationEnd b) s = .next (beginWipeWrite .accountState s)))
  ∧ ([RegionId.accountState, .reach, .turnouts, .rating, .accounts, .tariff, .lineTiming, .scan, .alertEnables].map
        nextRegion
      = [some .reach, some .turnouts, some .rating, some .accounts, some .tariff, some .lineTiming, some .scan,
          some .alertEnables, none])
  ∧ (∀ (r : RegionId) (s : State), beginErase r s = { s with store := { s.store with
      regions := eraseRegion r s.store.regions, op := none, waiting := false, wipe := some (.erasing r) } })
  ∧ (∀ (r : RegionId) (s : State), s.store.nextSeq < 4294967295 →
      beginWipeWrite r s = { s with store := { s.store with
        regions := eraseRegion r s.store.regions
        nextSeq := s.store.nextSeq + 1
        wipe := some (.writing r)
        op := some ⟨⟨s.store.nextSeq, 0⟩, match r with
          | .reach => .reach {}
          | .turnouts => .turnouts (.replicate 16 {})
          | .rating => .rating (tableOf factoryHalf)
          | .accounts => .accounts (.replicate 64 {})
          | .tariff => .tariff ⟨.replicate 4 {}, none⟩
          | .lineTiming => .lineTiming {}
          | .scan => .scan {}
          | .alertEnables => .alertEnables 0xFFFF
          | .accountState => .accountState {
              period := 0, counters := .replicate 64 {}, meters := .replicate 16 {}, balance := {}
              unmetered := .replicate 18 0, bills := [], closes := [], lock := false, edition := 0, active := none },
          none, false⟩ } })
  ∧ (∀ s : State, s.store.nextSeq < 4294967295 →
      beginSnapshot s = { s with store := { s.store with
        regions := { s.store.regions with accountState := none }
        nextSeq := s.store.nextSeq + 1
        waiting := false
        op := some ⟨⟨s.store.nextSeq, s.clock.period⟩, .accountState (accountCopy s), none,
          decide (s.mgmt.state = .restartPending)⟩ } })
  ∧ ∀ s : State,
      let working := ∃ r, s.store.wipe = some (.erasing r) ∨ s.store.wipe = some (.writing r)
      (working → requestSnapshot s = s)
      ∧ (¬ working → s.store.op = none → requestSnapshot s = beginSnapshot s)
      ∧ (¬ working → s.store.op.isSome = true →
          requestSnapshot s = { s with store := { s.store with waiting := true } })

/-- R182 to R185 and R190: the passages of the supply monitor. NORMAL to LOW below the warning level raises SUPPLY LOW and
asks for a snapshot; LOW to NORMAL above the level + 0.3 V raises and asks nothing; between the two the status stays. Below
9.6 V the part stops, a supply in NORMAL going through LOW first. A stopped part whose supply does not stay above 6.0 V loses
its retention mark, which is all that the model takes from it (log 32); above 6.0 V it keeps it. Whichever supply command
brings a level, it makes every passage that the level calls for (log 33). While the part loads, a passage to LOW sets the
status alone (log 30). -/
def Obligations.SupplyPassages : Prop :=
  ∀ (v : Nat) (s : State),
    let warn := [10800, 11200, 11600, 12000].getD s.tables.reach.warnChoice 12000
    let moves := exec (.supplyLow v) s
    let levelled := { s with supply := { s.supply with level := v } }
    let status := fun st => { s with supply := { s.supply with level := v, status := st } }
    let low := requestSnapshot (raise .supplyLow (status .low))
    let stopped := fun x : State => { x with
      comms := { x.comms with
        u := { x.comms.u with inFlight := none }
        d := { x.comms.d with inFlight := none } }
      store := { x.store with op := none, waiting := false, wipe := none, wipeFault := false }
      supply := { x.supply with
        status := .backup
        relayClosed := true
        retention := if v ≤ 6000 then false else s.supply.retention }
      loading := none }
    (exec (.supplyNormal v) s = moves ∧ exec (.supplyBackup v) s = moves ∧ exec (.workingMemoryLoss v) s = moves
      ∧ exec (.supplyRestart v) s = moves)
    ∧ (Runs s →
      (s.supply.status = .normal → warn ≤ v → moves = .next levelled)
      ∧ (s.supply.status = .normal → 9600 ≤ v → v < warn → moves = .next low)
      ∧ (s.supply.status = .low → warn + 300 < v → moves = .next (status .normal))
      ∧ (s.supply.status = .low → 9600 ≤ v → v ≤ warn + 300 → moves = .next levelled)
      ∧ (s.supply.status = .low → v < 9600 → moves = .next (stopped levelled))
      ∧ (s.supply.status = .normal → v < 9600 → moves = .next (stopped low)))
    ∧ (s.supply.status = .backup →
      (v ≤ 6000 → moves = .next { s with supply := { s.supply with level := v, retention := false } })
      ∧ (6000 < v → v ≤ 10200 → moves = .next levelled))
    ∧ (s.loading.isSome = true →
      (s.supply.status = .normal → warn ≤ v → moves = .next levelled)
      ∧ (s.supply.status = .normal → 9600 ≤ v → v < warn → moves = .next (status .low))
      ∧ (s.supply.status = .low → warn + 300 < v → moves = .next (status .normal))
      ∧ (s.supply.status = .low → 9600 ≤ v → v ≤ warn + 300 → moves = .next levelled)
      ∧ (s.supply.status ≠ .backup → v < 9600 → moves = .next (stopped levelled)))

/-- R178, R185 to R187 with R30, R53, R54, R96, R114, R131, R132, R146, R161, R169 and R177: above 10.2 V a stopped part
restarts, as a supply recovery when the retention mark reads as set and as a power-on when not. Whatever it held, it then holds
what its store gives: each complete table region, else its factory value with its code in the set of factory tables and a
store fault noted; the records of a complete ACCOUNT STATE, else the VOID ones with the period number of the region written
last; the tariff records as R169 gives; the next write sequence one above the highest. No order, no reservation, no frost call,
no curtail limit, the clock UNSET. A commanded restart loads alike, with its kind; the restart of a wipe takes every table, the
tariff and the accounts at their factory values, the lock clear and edition 0, period number 0 and the result FACTORY with all
eight tables in the set, reads nothing, and notes a store fault where a write of the wipe failed (R52, R189). That closes which the clock had raised are lost with the restart is the model's choice (log
9); so is the status while loading, which compares the supply with choice 1 (R182, log 30). -/
def Obligations.RestartLoadsTheStore : Prop :=
  let loads := fun (kind : RestartKind) (v : Nat) (s t : State) =>
    t.pending = s.pending ∧ t.comms = {} ∧ t.lastTaken = none ∧ t.orders = {} ∧ t.carriage = {}
      ∧ t.gates = .replicate 16 {} ∧ t.gateWaiting = []
      ∧ t.clock = { period := t.clock.period, drawLimit := t.tables.reach.localDraw }
      ∧ t.mgmt = { restart := s.mgmt.restart }
      ∧ t.supply = { s.supply with
          level := v, status := if v < 11200 then .low else .normal, relayClosed := true }
      ∧ t.scan = { stations := t.scan.stations } ∧ t.metering.record = none ∧ t.billing.raised = []
      ∧ t.store = { regions := s.store.regions, nextSeq := t.store.nextSeq }
      ∧ (let g := s.store.regions
         let restored := fun a : AccountImage => ∃ h, Complete accountImageBytes g.accountState h a
         let void := Incomplete accountImageBytes g.accountState
         let tariff := fun i : TariffImage => ∃ h, Complete tariffImageBytes g.tariff h i
         let noTariff := Incomplete tariffImageBytes g.tariff
         (∃ l, t.loading = some l
            ∧ l.record.kind = kind
            ∧ (∀ a, restored a → l.record.result = .restored) ∧ (void → l.record.result = .void)
            ∧ (∀ k r, (k, r) ∈ [(0, RegionId.reach), (1, .turnouts), (2, .rating), (3, .accounts), (4, .tariff),
                  (5, .lineTiming), (6, .scan), (7, .alertEnables)] →
                (l.record.factoryTables.getLsbD k = true ↔ LacksRegion g r))
            ∧ (l.storeFault = true ↔ ∃ r, LacksRegion g r))
         ∧ (∀ h x, Complete reachBytes g.reach h x → t.tables.reach = x)
         ∧ (Incomplete reachBytes g.reach → t.tables.reach = {})
         ∧ (∀ h x, Complete (entryBytes turnoutBytes) g.turnouts h x → t.tables.turnouts = x)
         ∧ (Incomplete (entryBytes turnoutBytes) g.turnouts → t.tables.turnouts = .replicate 16 {})
         ∧ (∀ h x, Complete (entryBytes halfBytes) g.rating h x → t.tables.rating = x)
         ∧ (Incomplete (entryBytes halfBytes) g.rating → t.tables.rating = tableOf factoryHalf)
         ∧ (∀ h x, Complete (entryBytes accountBytes) g.accounts h x → t.tables.accounts = x)
         ∧ (Incomplete (entryBytes accountBytes) g.accounts → t.tables.accounts = .replicate 64 {})
         ∧ (∀ h x, Complete timingBytes g.lineTiming h x → t.tables.timing = x)
         ∧ (Incomplete timingBytes g.lineTiming → t.tables.timing = {})
         ∧ (∀ h x, Complete scanBytes g.scan h x → t.tables.scan = x)
         ∧ (Incomplete scanBytes g.scan → t.tables.scan = {})
         ∧ (∀ h x, Complete enablesBytes g.alertEnables h x → t.tables.enables = x)
         ∧ (Incomplete enablesBytes g.alertEnables → t.tables.enables = 0xFFFF)
         ∧ (∀ a, restored a →
              t.clock.period = a.period ∧ t.metering.meters = a.meters ∧ t.metering.balance = a.balance
              ∧ t.billing.bills = a.bills ∧ t.billing.closes = a.closes ∧ t.billing.lock = a.lock
              ∧ (∀ i, getAt t.metering.counters i =
                  if (getAt t.tables.accounts i).number = 0 then {} else getAt a.counters i)
              ∧ (∀ x, getAt t.scan.stations x = { unmetered := getAt a.unmetered x })
              ∧ (a.lock = true → t.billing.edition = a.edition
                  ∧ (∀ x, a.active = some x → t.billing.active = x)
                  ∧ (∀ i, tariff i → t.billing.staged = i.staged.filter fun y => y.edition == a.edition)
                  ∧ (noTariff → t.billing.staged = none))
              ∧ (a.lock = false → t.billing.staged = none
                  ∧ (∀ i, tariff i → t.billing.active = i.active
                      ∧ (∀ y, i.staged = some y → t.billing.edition = (y.edition + 1) % 65536)
                      ∧ (i.staged = none → t.billing.edition = a.edition))
                  ∧ (noTariff → t.billing.active = .replicate 4 {} ∧ t.billing.edition = a.edition)))
         ∧ (void → t.metering.meters = .replicate 16 {} ∧ t.metering.balance = {}
              ∧ t.billing.bills = [] ∧ t.billing.closes = [] ∧ t.billing.lock = false ∧ t.billing.staged = none
              ∧ (∀ i, getAt t.metering.counters i = { void := decide ((getAt t.tables.accounts i).number ≠ 0) })
              ∧ (∀ x, getAt t.scan.stations x = {})
              ∧ (∀ i, tariff i → t.billing.active = i.active
                  ∧ (∀ y, i.staged = some y → t.billing.edition = (y.edition + 1) % 65536)
                  ∧ (i.staged = none → t.billing.edition = 0))
              ∧ (noTariff → t.billing.active = .replicate 4 {} ∧ t.billing.edition = 0)
              ∧ (∀ h, HoldsHeader g h → (∀ h', HoldsHeader g h' → h' = h ∨ h'.sequence < h.sequence) →
                  t.clock.period = h.period)
              ∧ ((∀ h, ¬ HoldsHeader g h) → t.clock.period = 0))
         ∧ (∀ h, HoldsHeader g h → (∀ h', HoldsHeader g h' → h'.sequence ≤ h.sequence) →
              h.sequence < 4294967295 → t.store.nextSeq = h.sequence + 1)
         ∧ ((∀ h, ¬ HoldsHeader g h) → t.store.nextSeq = 1))
  (∀ (v : Nat) (s : State), s.supply.status = .backup → 10200 < v →
    ∃ t, exec (.supplyRestart v) s = .next t
      ∧ loads (if s.supply.retention = true then .supplyRecovery else .powerOn) v s t)
  ∧ (∀ (kind : RestartKind) (s : State), loads kind s.supply.level s (restartReading kind s))
  ∧ ∀ s : State, restartWiped s = {
      pending := s.pending
      comms := {}
      lastTaken := none
      clock := { drawLimit := ({} : ReachTable).localDraw }
      tables := {}
      orders := {}
      carriage := {}
      gates := .replicate 16 {}
      gateWaiting := []
      scan := {}
      metering := {}
      billing := {}
      mgmt := { restart := s.mgmt.restart }
      store := { regions := s.store.regions, nextSeq := s.store.nextSeq }
      supply := { s.supply with status := if s.supply.level < 11200 then .low else .normal, relayClosed := true }
      loading := some ⟨⟨.wipe, .factory, 0xFF⟩, s.store.wipeFault⟩
      free := s.free }

/-- R188 and R53: the end of loading. The restart record is written and no loading remains; RESTARTED is raised, and
STORE FAULT where loading noted one, SUPPLY LOW where the supply is below the loaded warning level, which makes the status
LOW and asks for a snapshot; else the status is NORMAL, whatever it was while loading (log 30); no other flag stands but those
the hand-overs raise. The gate unit then places a GATE SET 0 for each enabled turnout in ascending order while the D queue has
a place, its record passing to MOVING with both timers, and the other turnouts wait (R131), which an unassigned part passes over
(R118); the scan unit starts its interval timer and its first scan (R134, R146, what a scan's beginning does ScanTimersExpire
says); the retention mark is set and the bypass relay opens. A turnout that waits gets its GATE SET 0 as the next waiting one; that at a part which is then unassigned it no longer waits,
its GATE SET being passed over, is the model's reading (log 25). -/
def Obligations.LoadingEnds : Prop :=
  (∀ (l : Loading) (s : State), s.loading = some l →
    ∃ t, exec .loadingComplete s = .next t
      ∧ t.loading = none ∧ t.mgmt = { restart := l.record }
      ∧ t.supply.retention = true ∧ t.supply.relayClosed = false ∧ t.supply.level = s.supply.level
      ∧ (t.supply.status =
          (if s.supply.level < [10800, 11200, 11600, 12000].getD s.tables.reach.warnChoice 12000 then .low else .normal))
      ∧ t.comms.flags.getLsbD 15 = true
      ∧ (l.storeFault = true → t.comms.flags.getLsbD 13 = true)
      ∧ (t.supply.status = .low → t.comms.flags.getLsbD 12 = true)
      ∧ t.scan.interval = some s.tables.scan.interval
      ∧ t.tables = s.tables ∧ t.metering = s.metering ∧ t.clock = s.clock ∧ t.orders = s.orders
      ∧ t.billing = s.billing)
  ∧ (∀ (l : Loading) (s : State) (gates : Vector GateRec 16), s.loading = some l →
      let n := ownReach s
      let warn := [10800, 11200, 11600, 12000].getD s.tables.reach.warnChoice 12000
      let ready := { s with
        mgmt := { restart := l.record }
        comms := { s.comms with flags := 0 }
        supply := { s.supply with status := .normal }
        loading := none }
      let warned :=
        if s.supply.level < warn then
          requestSnapshot (raise .supplyLow { ready with supply := { s.supply with status := .low } })
        else ready
      let noted := if l.storeFault = true then raise .storeFault warned else warned
      let z := raise .restarted noted
      let enabled := if n = 0 then [] else (List.finRange 16).filter fun t => (getAt s.tables.turnouts t).enabled
      let places := 8 - z.comms.d.queue.length
      (∀ t, getAt gates t =
        (let g := getAt s.gates t
         if t ∈ enabled.take places then
           { g with
             commanded := 0
             lastCommand := s.clock.seconds
             stamp := s.clock.run
             state := .moving
             replyTimer := some s.tables.timing.gateReply
             travelTimer := some (getAt s.tables.turnouts t).travelLimit }
         else g)) →
      let frames := (enabled.take places).map fun t => mkFrame ⟨n, t.val + 1⟩ ⟨n, 0⟩ 0x31 (be 2 0) false
      let scanned := beginScan { z with
        comms := { z.comms with d := { z.comms.d with queue := z.comms.d.queue ++ frames } }
        gates := gates
        gateWaiting := if n = 0 then s.gateWaiting else enabled.drop places
        scan := { s.scan with interval := some s.tables.scan.interval } }
      exec .loadingComplete s =
        .next { scanned with supply := { scanned.supply with retention := true, relayClosed := false } })
  ∧ ∀ s : State,
      (s.gateWaiting = [] → placeWaiting s = s)
      ∧ ∀ t rest, s.gateWaiting = t :: rest →
          (ownReach s = 0 → placeWaiting s = { s with gateWaiting := rest })
          ∧ (ownReach s ≠ 0 → placeWaiting s =
              { place .d (mkFrame ⟨ownReach s, t.val + 1⟩ ⟨ownReach s, 0⟩ 0x31 (be 2 0) false) s with
                gates := putAt s.gates t { getAt s.gates t with
                  commanded := 0
                  lastCommand := s.clock.seconds
                  stamp := s.clock.run
                  state := .moving
                  replyTimer := some s.tables.timing.gateReply
                  travelTimer := some (getAt s.tables.turnouts t).travelLimit }
                gateWaiting := rest.filter fun x => x != t })

/-! ## Laws -/

/-- The reset state keeps every law, and it is where a part that has lost its working memory and whose store was never
written stands after the supply has risen to 12 V and loading has ended (section 11.1; the 12 V are the model's choice,
log 5). -/
def Obligations.ResetIsTheFirstPowerOn : Prop :=
  (QueueLaw State.reset ∧ RelayLaw State.reset ∧ MeterLaw State.reset ∧ ClockLaw State.reset ∧ OrderLaw State.reset
     ∧ CarriageLaw State.reset ∧ TurnoutLaw State.reset)
    ∧ (∀ s : State, s.supply.status = .backup → s.supply.retention = false → s.store.regions = {} → s.pending = [] →
        s.free = 0 → ∃ t, exec (.supplyRestart 12000) s = .next t ∧ exec .loadingComplete t = .next State.reset)

/-- Every step keeps the form of the transmit queues and the two places of the holdings (R13, R21, R22). -/
def Obligations.QueueLawIsKept : Prop :=
  ∀ s t : State, QueueLaw s → step s = .next t → QueueLaw t

/-- Every step keeps the bypass relay closed exactly while the part is stopped or loading (R184, R185, R188); and every
step keeps period seconds at 0 while UNSET, run seconds in range, and the local draw limit as R68 gives it. -/
def Obligations.RelayAndClockLawsAreKept : Prop :=
  ∀ s t : State, step s = .next t → (RelayLaw s → RelayLaw t) ∧ (ClockLaw s → ClockLaw t)

/-- Every step keeps the law of the turnout meters (R149). -/
def Obligations.MeterLawIsKept : Prop :=
  ∀ s t : State, MeterLaw s → step s = .next t → MeterLaw t

/-- Every step keeps the laws of the order table (R70): at most 48 records, no tag twice, no two windows on one turnout
overlapping. -/
def Obligations.OrderLawIsKept : Prop :=
  ∀ s t : State, OrderLaw s → step s = .next t → OrderLaw t

/-- Every step keeps the carriage list at 64 records, in ascending order, no key twice (R97). -/
def Obligations.CarriageLawIsKept : Prop :=
  ∀ s t : State, CarriageLaw s → step s = .next t → CarriageLaw t

/-- Every step keeps the law of the turnout (R87), in states that keep the laws of the order table. -/
def Obligations.TurnoutLawIsKept : Prop :=
  ∀ s t : State, OrderLaw s → TurnoutLaw s → step s = .next t → TurnoutLaw t
end

