-- ==== Sys2Proof/Laws/Bytes.lean ====
section
/-! SUPPORT. Laws/Bytes.lean: what the byte, table and sorting helpers do. -/

namespace Sys2Proof.Machine

/-! ## Fields -/

@[simp] theorem be_length (k n : Nat) : (be k n).length = k := by
  induction k with
  | zero => rfl
  | succ k ih => simp [be, ih]

@[simp] theorem be_zero (n : Nat) : be 0 n = [] := rfl

theorem be_one (n : Nat) : be 1 n = [BitVec.ofNat 8 n] := by simp [be]

theorem foldl_bytes (bs : List Byte) (n : Nat) :
    bs.foldl (fun n b => n * 256 + b.toNat) n = n * 256 ^ bs.length + beVal bs := by
  induction bs generalizing n with
  | nil => simp [beVal]
  | cons b bs ih =>
    have h := ih (0 * 256 + b.toNat)
    have e : beVal (b :: bs) = bs.foldl (fun n b => n * 256 + b.toNat) (0 * 256 + b.toNat) := rfl
    rw [e, h, List.foldl_cons, ih, List.length_cons]
    ring

theorem beVal_cons (b : Byte) (bs : List Byte) : beVal (b :: bs) = b.toNat * 256 ^ bs.length + beVal bs := by
  have h := foldl_bytes bs b.toNat
  simpa [beVal] using h

@[simp] theorem beVal_nil : beVal [] = 0 := rfl

/-- The bytes of a number spell it, cut to their width. -/
theorem beVal_be (k n : Nat) : beVal (be k n) = n % 256 ^ k := by
  induction k with
  | zero => simp [be, Nat.mod_one]
  | succ k ih =>
    rw [be, beVal_cons, be_length, ih, BitVec.toNat_ofNat]
    have e : n % 256 ^ (k + 1) = n % (256 ^ k * 256) := by rw [pow_succ]
    rw [e, Nat.mod_mul]
    simp only [Nat.reducePow]
    ring

theorem beVal_be_of_lt {k n : Nat} (h : n < 256 ^ k) : beVal (be k n) = n := by
  rw [beVal_be, Nat.mod_eq_of_lt h]

/-- A field that begins where a first part ends. -/
theorem field_append_right {x y : List Byte} {off len : Nat} (h : x.length ≤ off) :
    field (x ++ y) off len = field y (off - x.length) len := by
  simp [field, List.drop_append, List.drop_eq_nil_of_le h]

/-- A field that lies in a first part. -/
theorem field_append_left {x y : List Byte} {off len : Nat} (h : off + len ≤ x.length) :
    field (x ++ y) off len = field x off len := by
  have h' : len ≤ (x.drop off).length := by simp; omega
  have h'' : off ≤ x.length := by omega
  simp [field, List.drop_append_of_le_length h'', List.take_append_of_le_length h']

/-- A whole number at the head of a body. -/
theorem field_be_append {k n : Nat} (y : List Byte) (h : n < 256 ^ k) : field (be k n ++ y) 0 k = n := by
  rw [field_append_left (by simp)]
  simp [field, List.take_of_length_le, beVal_be_of_lt h]

theorem field_be {k n : Nat} (h : n < 256 ^ k) : field (be k n) 0 k = n := by
  simpa using field_be_append [] h

/-- A byte at the head of a body. -/
@[simp] theorem field_cons_zero_one (b : Byte) (y : List Byte) : field (b :: y) 0 1 = b.toNat := by
  simp [field, beVal]

@[simp] theorem field_cons_succ (b : Byte) (y : List Byte) (off len : Nat) :
    field (b :: y) (off + 1) len = field y off len := by
  simp [field]

theorem beVal_lt (bs : List Byte) : beVal bs < 256 ^ bs.length := by
  induction bs with
  | nil => simp
  | cons b bs ih =>
    rw [beVal_cons, List.length_cons, pow_succ]
    have hb := b.isLt
    have : b.toNat * 256 ^ bs.length + 256 ^ bs.length ≤ 256 * 256 ^ bs.length := by
      have : (b.toNat + 1) * 256 ^ bs.length ≤ 256 * 256 ^ bs.length := Nat.mul_le_mul_right _ (by omega)
      linarith
    linarith

/-- A field is smaller than its width allows. -/
theorem field_lt (b : List Byte) (off len : Nat) : field b off len < 256 ^ len := by
  have h := beVal_lt ((b.drop off).take len)
  have : 256 ^ ((b.drop off).take len).length ≤ 256 ^ len := Nat.pow_le_pow_right (by norm_num) (by simp)
  exact lt_of_lt_of_le h this

@[simp] theorem flagByte_length (b : Bool) : (flagByte b).length = 1 := by simp [flagByte]

@[simp] theorem headerBytes_length (dst src : Addr) (kind len : Nat) : (headerBytes dst src kind len).length = 6 := by
  simp [headerBytes]

@[simp] theorem frameBytes_length (f : Frame) : (frameBytes f).length = f.body.length + 8 := by
  simp [frameBytes]; omega

@[simp] theorem byteBits_length (b : Byte) : (byteBits b).length = 8 := rfl

/-! ## Tables -/

@[simp] theorem getAt_putAt_self {α : Type} {n : Nat} (v : Vector α n) (i : Fin n) (x : α) :
    getAt (putAt v i x) i = x := by
  simp [getAt, putAt]

theorem getAt_putAt_ne {α : Type} {n : Nat} (v : Vector α n) {i j : Fin n} (x : α) (h : j ≠ i) :
    getAt (putAt v i x) j = getAt v j := by
  have : i.val ≠ j.val := fun e => h (Fin.ext e.symm)
  simp [getAt, putAt, this]

theorem getAt_putAt {α : Type} {n : Nat} (v : Vector α n) (i j : Fin n) (x : α) :
    getAt (putAt v i x) j = if j = i then x else getAt v j := by
  split
  · next h => subst h; simp
  · next h => exact getAt_putAt_ne v x h

@[simp] theorem getAt_mapTable {α β : Type} {n : Nat} (f : α → β) (v : Vector α n) (i : Fin n) :
    getAt (mapTable f v) i = f (getAt v i) := by
  simp [getAt, mapTable]

@[simp] theorem getAt_tableOf {α : Type} {n : Nat} (f : Fin n → α) (i : Fin n) : getAt (tableOf f) i = f i := by
  simp [getAt, tableOf]

@[simp] theorem getAt_replicate {α : Type} {n : Nat} (x : α) (i : Fin n) : getAt (.replicate n x) i = x := by
  simp [getAt]

@[simp] theorem putAt_getAt_self {α : Type} {n : Nat} (v : Vector α n) (i : Fin n) : putAt v i (getAt v i) = v := by
  simp [getAt, putAt]

@[simp] theorem putAt_putAt {α : Type} {n : Nat} (v : Vector α n) (i : Fin n) (x y : α) :
    putAt (putAt v i x) i y = putAt v i y := by
  simp [putAt]

theorem table_ext {α : Type} {n : Nat} {v w : Vector α n} (h : ∀ i, getAt v i = getAt w i) : v = w := by
  apply Vector.ext
  intro i hi
  exact h ⟨i, hi⟩

/-! ## Sorting -/

theorem insertBy_perm {α : Type} (key : α → Nat) (x : α) (l : List α) : (insertBy key x l).Perm (x :: l) := by
  induction l with
  | nil => exact List.Perm.refl _
  | cons y ys ih =>
    unfold insertBy
    split
    · exact List.Perm.refl _
    · exact (List.Perm.cons y ih).trans (List.Perm.swap x y ys)

theorem sortBy_perm {α : Type} (key : α → Nat) (l : List α) : (sortBy key l).Perm l := by
  have h : ∀ acc : List α, (l.foldl (fun acc x => insertBy key x acc) acc).Perm (acc ++ l) := by
    induction l with
    | nil => intro acc; simp
    | cons x xs ih =>
      intro acc
      simp only [List.foldl_cons]
      refine (ih _).trans ?_
      refine ((insertBy_perm key x acc).append_right xs).trans ?_
      simpa using (List.perm_middle (a := x) (l₁ := acc) (l₂ := xs)).symm
  simpa [sortBy] using h []

@[simp] theorem mem_insertBy {α : Type} (key : α → Nat) (x y : α) (l : List α) :
    y ∈ insertBy key x l ↔ y = x ∨ y ∈ l := by
  rw [(insertBy_perm key x l).mem_iff]; simp

@[simp] theorem mem_sortBy {α : Type} (key : α → Nat) (y : α) (l : List α) : y ∈ sortBy key l ↔ y ∈ l :=
  (sortBy_perm key l).mem_iff

@[simp] theorem length_insertBy {α : Type} (key : α → Nat) (x : α) (l : List α) :
    (insertBy key x l).length = l.length + 1 := by
  rw [(insertBy_perm key x l).length_eq]; simp

@[simp] theorem length_sortBy {α : Type} (key : α → Nat) (l : List α) : (sortBy key l).length = l.length :=
  (sortBy_perm key l).length_eq

/-- Insertion into an ascending list leaves it ascending. -/
theorem insertBy_ascending {α : Type} {key : α → Nat} {x : α} {l : List α}
    (h : l.Pairwise fun a b => key a ≤ key b) : (insertBy key x l).Pairwise fun a b => key a ≤ key b := by
  induction l with
  | nil => simp [insertBy]
  | cons y ys ih =>
    rw [List.pairwise_cons] at h
    unfold insertBy
    split
    · next hlt =>
      refine List.pairwise_cons.2 ⟨?_, List.pairwise_cons.2 h⟩
      intro z hz
      rcases List.mem_cons.1 hz with rfl | hz
      · omega
      · have := h.1 z hz; omega
    · next hge =>
      refine List.pairwise_cons.2 ⟨?_, ih h.2⟩
      intro z hz
      rcases (mem_insertBy key x z ys).1 hz with rfl | hz
      · omega
      · exact h.1 z hz

/-- The sorted list is ascending. -/
theorem sortBy_ascending {α : Type} (key : α → Nat) (l : List α) :
    (sortBy key l).Pairwise fun a b => key a ≤ key b := by
  have h : ∀ acc : List α, (acc.Pairwise fun a b => key a ≤ key b) →
      (l.foldl (fun acc x => insertBy key x acc) acc).Pairwise fun a b => key a ≤ key b := by
    induction l with
    | nil => intro acc ha; simpa using ha
    | cons x xs ih => intro acc ha; exact ih _ (insertBy_ascending ha)
  exact h [] List.Pairwise.nil

/-- A sort read backwards descends by its key. -/
theorem sortBy_reverse_descending {α : Type} (key : α → Nat) (l : List α) :
    (sortBy key l).reverse.Pairwise fun a b => key b ≤ key a := by
  rw [List.pairwise_reverse]
  exact sortBy_ascending key l

end Sys2Proof.Machine
end

