-- ==== Sys2Proof/Laws/State.lean ====
section
/-! SUPPORT. Laws/State.lean: what the named updates of the state write, and that they keep every other field. -/

namespace Sys2Proof.Machine

/-! ## Fields that an update keeps -/

@[simp] theorem place_fields (p : Port) (f : Frame) (s : State) :
    (place p f s).pending = s.pending ∧ (place p f s).lastTaken = s.lastTaken ∧ (place p f s).clock = s.clock
      ∧ (place p f s).tables = s.tables ∧ (place p f s).orders = s.orders ∧ (place p f s).carriage = s.carriage
      ∧ (place p f s).gates = s.gates ∧ (place p f s).gateWaiting = s.gateWaiting ∧ (place p f s).scan = s.scan
      ∧ (place p f s).metering = s.metering ∧ (place p f s).billing = s.billing ∧ (place p f s).mgmt = s.mgmt
      ∧ (place p f s).store = s.store ∧ (place p f s).supply = s.supply ∧ (place p f s).loading = s.loading
      ∧ (place p f s).free = s.free :=
  ⟨rfl, rfl, rfl, rfl, rfl, rfl, rfl, rfl, rfl, rfl, rfl, rfl, rfl, rfl, rfl, rfl⟩

@[simp] theorem raise_fields (k : Flag) (s : State) :
    (raise k s).pending = s.pending ∧ (raise k s).lastTaken = s.lastTaken ∧ (raise k s).clock = s.clock
      ∧ (raise k s).tables = s.tables ∧ (raise k s).orders = s.orders ∧ (raise k s).carriage = s.carriage
      ∧ (raise k s).gates = s.gates ∧ (raise k s).gateWaiting = s.gateWaiting ∧ (raise k s).scan = s.scan
      ∧ (raise k s).metering = s.metering ∧ (raise k s).billing = s.billing ∧ (raise k s).mgmt = s.mgmt
      ∧ (raise k s).store = s.store ∧ (raise k s).supply = s.supply ∧ (raise k s).loading = s.loading
      ∧ (raise k s).free = s.free :=
  ⟨rfl, rfl, rfl, rfl, rfl, rfl, rfl, rfl, rfl, rfl, rfl, rfl, rfl, rfl, rfl, rfl⟩

@[simp] theorem count_fields (p : Port) (f : LineCounts → LineCounts) (s : State) :
    (count p f s).pending = s.pending ∧ (count p f s).lastTaken = s.lastTaken ∧ (count p f s).clock = s.clock
      ∧ (count p f s).tables = s.tables ∧ (count p f s).orders = s.orders ∧ (count p f s).carriage = s.carriage
      ∧ (count p f s).gates = s.gates ∧ (count p f s).gateWaiting = s.gateWaiting ∧ (count p f s).scan = s.scan
      ∧ (count p f s).metering = s.metering ∧ (count p f s).billing = s.billing ∧ (count p f s).mgmt = s.mgmt
      ∧ (count p f s).store = s.store ∧ (count p f s).supply = s.supply ∧ (count p f s).loading = s.loading
      ∧ (count p f s).free = s.free :=
  ⟨rfl, rfl, rfl, rfl, rfl, rfl, rfl, rfl, rfl, rfl, rfl, rfl, rfl, rfl, rfl, rfl⟩

@[simp] theorem countUnmatched_fields (s : State) :
    (countUnmatched s).pending = s.pending ∧ (countUnmatched s).lastTaken = s.lastTaken
      ∧ (countUnmatched s).clock = s.clock ∧ (countUnmatched s).tables = s.tables
      ∧ (countUnmatched s).orders = s.orders ∧ (countUnmatched s).carriage = s.carriage
      ∧ (countUnmatched s).gates = s.gates ∧ (countUnmatched s).gateWaiting = s.gateWaiting
      ∧ (countUnmatched s).scan = s.scan ∧ (countUnmatched s).metering = s.metering
      ∧ (countUnmatched s).billing = s.billing ∧ (countUnmatched s).mgmt = s.mgmt
      ∧ (countUnmatched s).store = s.store ∧ (countUnmatched s).supply = s.supply
      ∧ (countUnmatched s).loading = s.loading ∧ (countUnmatched s).free = s.free :=
  ⟨rfl, rfl, rfl, rfl, rfl, rfl, rfl, rfl, rfl, rfl, rfl, rfl, rfl, rfl, rfl, rfl⟩

@[simp] theorem countMisrouted_fields (p : Port) (s : State) :
    (countMisrouted p s).pending = s.pending ∧ (countMisrouted p s).lastTaken = s.lastTaken
      ∧ (countMisrouted p s).clock = s.clock ∧ (countMisrouted p s).tables = s.tables
      ∧ (countMisrouted p s).orders = s.orders ∧ (countMisrouted p s).carriage = s.carriage
      ∧ (countMisrouted p s).gates = s.gates ∧ (countMisrouted p s).gateWaiting = s.gateWaiting
      ∧ (countMisrouted p s).scan = s.scan ∧ (countMisrouted p s).metering = s.metering
      ∧ (countMisrouted p s).billing = s.billing ∧ (countMisrouted p s).mgmt = s.mgmt
      ∧ (countMisrouted p s).store = s.store ∧ (countMisrouted p s).supply = s.supply
      ∧ (countMisrouted p s).loading = s.loading ∧ (countMisrouted p s).free = s.free :=
  ⟨rfl, rfl, rfl, rfl, rfl, rfl, rfl, rfl, rfl, rfl, rfl, rfl, rfl, rfl, rfl, rfl⟩

@[simp] theorem countRefusedSource_fields (p : Port) (s : State) :
    (countRefusedSource p s).pending = s.pending ∧ (countRefusedSource p s).lastTaken = s.lastTaken
      ∧ (countRefusedSource p s).clock = s.clock ∧ (countRefusedSource p s).tables = s.tables
      ∧ (countRefusedSource p s).orders = s.orders ∧ (countRefusedSource p s).carriage = s.carriage
      ∧ (countRefusedSource p s).gates = s.gates ∧ (countRefusedSource p s).gateWaiting = s.gateWaiting
      ∧ (countRefusedSource p s).scan = s.scan ∧ (countRefusedSource p s).metering = s.metering
      ∧ (countRefusedSource p s).billing = s.billing ∧ (countRefusedSource p s).mgmt = s.mgmt
      ∧ (countRefusedSource p s).store = s.store ∧ (countRefusedSource p s).supply = s.supply
      ∧ (countRefusedSource p s).loading = s.loading ∧ (countRefusedSource p s).free = s.free :=
  ⟨rfl, rfl, rfl, rfl, rfl, rfl, rfl, rfl, rfl, rfl, rfl, rfl, rfl, rfl, rfl, rfl⟩

@[simp] theorem clearFlags_fields (x : BitVec 16) (s : State) :
    (clearFlags x s).pending = s.pending ∧ (clearFlags x s).lastTaken = s.lastTaken
      ∧ (clearFlags x s).clock = s.clock ∧ (clearFlags x s).tables = s.tables
      ∧ (clearFlags x s).orders = s.orders ∧ (clearFlags x s).carriage = s.carriage
      ∧ (clearFlags x s).gates = s.gates ∧ (clearFlags x s).gateWaiting = s.gateWaiting
      ∧ (clearFlags x s).scan = s.scan ∧ (clearFlags x s).metering = s.metering
      ∧ (clearFlags x s).billing = s.billing ∧ (clearFlags x s).mgmt = s.mgmt
      ∧ (clearFlags x s).store = s.store ∧ (clearFlags x s).supply = s.supply
      ∧ (clearFlags x s).loading = s.loading ∧ (clearFlags x s).free = s.free :=
  ⟨rfl, rfl, rfl, rfl, rfl, rfl, rfl, rfl, rfl, rfl, rfl, rfl, rfl, rfl, rfl, rfl⟩

@[simp] theorem zeroCounts_fields (s : State) :
    (zeroCounts s).pending = s.pending ∧ (zeroCounts s).lastTaken = s.lastTaken
      ∧ (zeroCounts s).clock = s.clock ∧ (zeroCounts s).tables = s.tables ∧ (zeroCounts s).orders = s.orders
      ∧ (zeroCounts s).carriage = s.carriage ∧ (zeroCounts s).gates = s.gates
      ∧ (zeroCounts s).gateWaiting = s.gateWaiting ∧ (zeroCounts s).scan = s.scan
      ∧ (zeroCounts s).metering = s.metering ∧ (zeroCounts s).billing = s.billing
      ∧ (zeroCounts s).mgmt = s.mgmt ∧ (zeroCounts s).store = s.store ∧ (zeroCounts s).supply = s.supply
      ∧ (zeroCounts s).loading = s.loading ∧ (zeroCounts s).free = s.free :=
  ⟨rfl, rfl, rfl, rfl, rfl, rfl, rfl, rfl, rfl, rfl, rfl, rfl, rfl, rfl, rfl, rfl⟩

@[simp] theorem mapUnit_fields (p : Port) (f : PortUnit → PortUnit) (s : State) :
    (mapUnit p f s).pending = s.pending ∧ (mapUnit p f s).lastTaken = s.lastTaken
      ∧ (mapUnit p f s).clock = s.clock ∧ (mapUnit p f s).tables = s.tables ∧ (mapUnit p f s).orders = s.orders
      ∧ (mapUnit p f s).carriage = s.carriage ∧ (mapUnit p f s).gates = s.gates
      ∧ (mapUnit p f s).gateWaiting = s.gateWaiting ∧ (mapUnit p f s).scan = s.scan
      ∧ (mapUnit p f s).metering = s.metering ∧ (mapUnit p f s).billing = s.billing
      ∧ (mapUnit p f s).mgmt = s.mgmt ∧ (mapUnit p f s).store = s.store ∧ (mapUnit p f s).supply = s.supply
      ∧ (mapUnit p f s).loading = s.loading ∧ (mapUnit p f s).free = s.free :=
  ⟨rfl, rfl, rfl, rfl, rfl, rfl, rfl, rfl, rfl, rfl, rfl, rfl, rfl, rfl, rfl, rfl⟩

@[simp] theorem sendOffice_fields (k : Nat) (b : List Byte) (m : Bool) (s : State) :
    (sendOffice k b m s).pending = s.pending ∧ (sendOffice k b m s).lastTaken = s.lastTaken
      ∧ (sendOffice k b m s).clock = s.clock ∧ (sendOffice k b m s).tables = s.tables
      ∧ (sendOffice k b m s).orders = s.orders ∧ (sendOffice k b m s).carriage = s.carriage
      ∧ (sendOffice k b m s).gates = s.gates ∧ (sendOffice k b m s).gateWaiting = s.gateWaiting
      ∧ (sendOffice k b m s).scan = s.scan ∧ (sendOffice k b m s).metering = s.metering
      ∧ (sendOffice k b m s).billing = s.billing ∧ (sendOffice k b m s).mgmt = s.mgmt
      ∧ (sendOffice k b m s).store = s.store ∧ (sendOffice k b m s).supply = s.supply
      ∧ (sendOffice k b m s).loading = s.loading ∧ (sendOffice k b m s).free = s.free :=
  ⟨rfl, rfl, rfl, rfl, rfl, rfl, rfl, rfl, rfl, rfl, rfl, rfl, rfl, rfl, rfl, rfl⟩

@[simp] theorem sendStation_fields (x k : Nat) (b : List Byte) (m : Bool) (s : State) :
    (sendStation x k b m s).pending = s.pending ∧ (sendStation x k b m s).lastTaken = s.lastTaken
      ∧ (sendStation x k b m s).clock = s.clock ∧ (sendStation x k b m s).tables = s.tables
      ∧ (sendStation x k b m s).orders = s.orders ∧ (sendStation x k b m s).carriage = s.carriage
      ∧ (sendStation x k b m s).gates = s.gates ∧ (sendStation x k b m s).gateWaiting = s.gateWaiting
      ∧ (sendStation x k b m s).scan = s.scan ∧ (sendStation x k b m s).metering = s.metering
      ∧ (sendStation x k b m s).billing = s.billing ∧ (sendStation x k b m s).mgmt = s.mgmt
      ∧ (sendStation x k b m s).store = s.store ∧ (sendStation x k b m s).supply = s.supply
      ∧ (sendStation x k b m s).loading = s.loading ∧ (sendStation x k b m s).free = s.free :=
  ⟨rfl, rfl, rfl, rfl, rfl, rfl, rfl, rfl, rfl, rfl, rfl, rfl, rfl, rfl, rfl, rfl⟩

@[simp] theorem sendNotice_fields (t : Turnout) (b : List Byte) (m : Bool) (s : State) :
    (sendNotice t b m s).pending = s.pending ∧ (sendNotice t b m s).lastTaken = s.lastTaken
      ∧ (sendNotice t b m s).clock = s.clock ∧ (sendNotice t b m s).tables = s.tables
      ∧ (sendNotice t b m s).orders = s.orders ∧ (sendNotice t b m s).carriage = s.carriage
      ∧ (sendNotice t b m s).gates = s.gates ∧ (sendNotice t b m s).gateWaiting = s.gateWaiting
      ∧ (sendNotice t b m s).scan = s.scan ∧ (sendNotice t b m s).metering = s.metering
      ∧ (sendNotice t b m s).billing = s.billing ∧ (sendNotice t b m s).mgmt = s.mgmt
      ∧ (sendNotice t b m s).store = s.store ∧ (sendNotice t b m s).supply = s.supply
      ∧ (sendNotice t b m s).loading = s.loading ∧ (sendNotice t b m s).free = s.free :=
  ⟨rfl, rfl, rfl, rfl, rfl, rfl, rfl, rfl, rfl, rfl, rfl, rfl, rfl, rfl, rfl, rfl⟩

@[simp] theorem sendRelease_fields (o : OrderRec) (t : Nat) (s : State) :
    (sendRelease o t s).pending = s.pending ∧ (sendRelease o t s).lastTaken = s.lastTaken
      ∧ (sendRelease o t s).clock = s.clock ∧ (sendRelease o t s).tables = s.tables
      ∧ (sendRelease o t s).orders = s.orders ∧ (sendRelease o t s).carriage = s.carriage
      ∧ (sendRelease o t s).gates = s.gates ∧ (sendRelease o t s).gateWaiting = s.gateWaiting
      ∧ (sendRelease o t s).scan = s.scan ∧ (sendRelease o t s).metering = s.metering
      ∧ (sendRelease o t s).billing = s.billing ∧ (sendRelease o t s).mgmt = s.mgmt
      ∧ (sendRelease o t s).store = s.store ∧ (sendRelease o t s).supply = s.supply
      ∧ (sendRelease o t s).loading = s.loading ∧ (sendRelease o t s).free = s.free :=
  ⟨rfl, rfl, rfl, rfl, rfl, rfl, rfl, rfl, rfl, rfl, rfl, rfl, rfl, rfl, rfl, rfl⟩

@[simp] theorem answer_fields (q : Byte) (k r : Nat) (b : List Byte) (s : State) :
    (answer q k r b s).pending = s.pending ∧ (answer q k r b s).lastTaken = s.lastTaken
      ∧ (answer q k r b s).clock = s.clock ∧ (answer q k r b s).tables = s.tables
      ∧ (answer q k r b s).orders = s.orders ∧ (answer q k r b s).carriage = s.carriage
      ∧ (answer q k r b s).gates = s.gates ∧ (answer q k r b s).gateWaiting = s.gateWaiting
      ∧ (answer q k r b s).scan = s.scan ∧ (answer q k r b s).metering = s.metering
      ∧ (answer q k r b s).billing = s.billing ∧ (answer q k r b s).store = s.store
      ∧ (answer q k r b s).supply = s.supply ∧ (answer q k r b s).loading = s.loading
      ∧ (answer q k r b s).free = s.free :=
  ⟨rfl, rfl, rfl, rfl, rfl, rfl, rfl, rfl, rfl, rfl, rfl, rfl, rfl, rfl, rfl⟩

@[simp] theorem mapGate_fields (t : Turnout) (f : GateRec → GateRec) (s : State) :
    (mapGate t f s).pending = s.pending ∧ (mapGate t f s).comms = s.comms
      ∧ (mapGate t f s).lastTaken = s.lastTaken ∧ (mapGate t f s).clock = s.clock
      ∧ (mapGate t f s).tables = s.tables ∧ (mapGate t f s).orders = s.orders
      ∧ (mapGate t f s).carriage = s.carriage ∧ (mapGate t f s).gateWaiting = s.gateWaiting
      ∧ (mapGate t f s).scan = s.scan ∧ (mapGate t f s).metering = s.metering
      ∧ (mapGate t f s).billing = s.billing ∧ (mapGate t f s).mgmt = s.mgmt ∧ (mapGate t f s).store = s.store
      ∧ (mapGate t f s).supply = s.supply ∧ (mapGate t f s).loading = s.loading ∧ (mapGate t f s).free = s.free :=
  ⟨rfl, rfl, rfl, rfl, rfl, rfl, rfl, rfl, rfl, rfl, rfl, rfl, rfl, rfl, rfl, rfl⟩

@[simp] theorem mapStation_fields (x : Station) (f : StationRec → StationRec) (s : State) :
    (mapStation x f s).pending = s.pending ∧ (mapStation x f s).comms = s.comms
      ∧ (mapStation x f s).lastTaken = s.lastTaken ∧ (mapStation x f s).clock = s.clock
      ∧ (mapStation x f s).tables = s.tables ∧ (mapStation x f s).orders = s.orders
      ∧ (mapStation x f s).carriage = s.carriage ∧ (mapStation x f s).gates = s.gates
      ∧ (mapStation x f s).gateWaiting = s.gateWaiting ∧ (mapStation x f s).metering = s.metering
      ∧ (mapStation x f s).billing = s.billing ∧ (mapStation x f s).mgmt = s.mgmt
      ∧ (mapStation x f s).store = s.store ∧ (mapStation x f s).supply = s.supply
      ∧ (mapStation x f s).loading = s.loading ∧ (mapStation x f s).free = s.free :=
  ⟨rfl, rfl, rfl, rfl, rfl, rfl, rfl, rfl, rfl, rfl, rfl, rfl, rfl, rfl, rfl, rfl⟩

@[simp] theorem mapCounters_fields (i : Fin 64) (f : Counters → Counters) (s : State) :
    (mapCounters i f s).pending = s.pending ∧ (mapCounters i f s).comms = s.comms
      ∧ (mapCounters i f s).lastTaken = s.lastTaken ∧ (mapCounters i f s).clock = s.clock
      ∧ (mapCounters i f s).tables = s.tables ∧ (mapCounters i f s).orders = s.orders
      ∧ (mapCounters i f s).carriage = s.carriage ∧ (mapCounters i f s).gates = s.gates
      ∧ (mapCounters i f s).gateWaiting = s.gateWaiting ∧ (mapCounters i f s).scan = s.scan
      ∧ (mapCounters i f s).billing = s.billing ∧ (mapCounters i f s).mgmt = s.mgmt
      ∧ (mapCounters i f s).store = s.store ∧ (mapCounters i f s).supply = s.supply
      ∧ (mapCounters i f s).loading = s.loading ∧ (mapCounters i f s).free = s.free :=
  ⟨rfl, rfl, rfl, rfl, rfl, rfl, rfl, rfl, rfl, rfl, rfl, rfl, rfl, rfl, rfl, rfl⟩

@[simp] theorem setLevel_fields (mv : Nat) (s : State) :
    (setLevel mv s).pending = s.pending ∧ (setLevel mv s).comms = s.comms
      ∧ (setLevel mv s).lastTaken = s.lastTaken ∧ (setLevel mv s).clock = s.clock
      ∧ (setLevel mv s).tables = s.tables ∧ (setLevel mv s).orders = s.orders
      ∧ (setLevel mv s).carriage = s.carriage ∧ (setLevel mv s).gates = s.gates
      ∧ (setLevel mv s).gateWaiting = s.gateWaiting ∧ (setLevel mv s).scan = s.scan
      ∧ (setLevel mv s).metering = s.metering ∧ (setLevel mv s).billing = s.billing
      ∧ (setLevel mv s).mgmt = s.mgmt ∧ (setLevel mv s).store = s.store ∧ (setLevel mv s).loading = s.loading
      ∧ (setLevel mv s).free = s.free :=
  ⟨rfl, rfl, rfl, rfl, rfl, rfl, rfl, rfl, rfl, rfl, rfl, rfl, rfl, rfl, rfl, rfl⟩

@[simp] theorem setStatus_fields (st : SupplyStatus) (s : State) :
    (setStatus st s).pending = s.pending ∧ (setStatus st s).comms = s.comms
      ∧ (setStatus st s).lastTaken = s.lastTaken ∧ (setStatus st s).clock = s.clock
      ∧ (setStatus st s).tables = s.tables ∧ (setStatus st s).orders = s.orders
      ∧ (setStatus st s).carriage = s.carriage ∧ (setStatus st s).gates = s.gates
      ∧ (setStatus st s).gateWaiting = s.gateWaiting ∧ (setStatus st s).scan = s.scan
      ∧ (setStatus st s).metering = s.metering ∧ (setStatus st s).billing = s.billing
      ∧ (setStatus st s).mgmt = s.mgmt ∧ (setStatus st s).store = s.store
      ∧ (setStatus st s).loading = s.loading ∧ (setStatus st s).free = s.free :=
  ⟨rfl, rfl, rfl, rfl, rfl, rfl, rfl, rfl, rfl, rfl, rfl, rfl, rfl, rfl, rfl, rfl⟩

@[simp] theorem openRelay_fields (s : State) :
    (openRelay s).pending = s.pending ∧ (openRelay s).comms = s.comms ∧ (openRelay s).lastTaken = s.lastTaken
      ∧ (openRelay s).clock = s.clock ∧ (openRelay s).tables = s.tables ∧ (openRelay s).orders = s.orders
      ∧ (openRelay s).carriage = s.carriage ∧ (openRelay s).gates = s.gates
      ∧ (openRelay s).gateWaiting = s.gateWaiting ∧ (openRelay s).scan = s.scan
      ∧ (openRelay s).metering = s.metering ∧ (openRelay s).billing = s.billing ∧ (openRelay s).mgmt = s.mgmt
      ∧ (openRelay s).store = s.store ∧ (openRelay s).loading = s.loading ∧ (openRelay s).free = s.free :=
  ⟨rfl, rfl, rfl, rfl, rfl, rfl, rfl, rfl, rfl, rfl, rfl, rfl, rfl, rfl, rfl, rfl⟩

@[simp] theorem setMgmt_fields (m : MgmtState) (s : State) :
    (setMgmt m s).pending = s.pending ∧ (setMgmt m s).comms = s.comms ∧ (setMgmt m s).lastTaken = s.lastTaken
      ∧ (setMgmt m s).clock = s.clock ∧ (setMgmt m s).tables = s.tables ∧ (setMgmt m s).orders = s.orders
      ∧ (setMgmt m s).carriage = s.carriage ∧ (setMgmt m s).gates = s.gates
      ∧ (setMgmt m s).gateWaiting = s.gateWaiting ∧ (setMgmt m s).scan = s.scan
      ∧ (setMgmt m s).metering = s.metering ∧ (setMgmt m s).billing = s.billing ∧ (setMgmt m s).store = s.store
      ∧ (setMgmt m s).supply = s.supply ∧ (setMgmt m s).loading = s.loading ∧ (setMgmt m s).free = s.free :=
  ⟨rfl, rfl, rfl, rfl, rfl, rfl, rfl, rfl, rfl, rfl, rfl, rfl, rfl, rfl, rfl, rfl⟩

@[simp] theorem stopPart_fields (s : State) :
    (stopPart s).pending = s.pending ∧ (stopPart s).lastTaken = s.lastTaken ∧ (stopPart s).clock = s.clock
      ∧ (stopPart s).tables = s.tables ∧ (stopPart s).orders = s.orders ∧ (stopPart s).carriage = s.carriage
      ∧ (stopPart s).gates = s.gates ∧ (stopPart s).gateWaiting = s.gateWaiting ∧ (stopPart s).scan = s.scan
      ∧ (stopPart s).metering = s.metering ∧ (stopPart s).billing = s.billing ∧ (stopPart s).mgmt = s.mgmt
      ∧ (stopPart s).free = s.free :=
  ⟨rfl, rfl, rfl, rfl, rfl, rfl, rfl, rfl, rfl, rfl, rfl, rfl, rfl⟩

@[simp] theorem creditOrder_fields (tag v a : Nat) (s : State) :
    (creditOrder tag v a s).pending = s.pending ∧ (creditOrder tag v a s).comms = s.comms
      ∧ (creditOrder tag v a s).lastTaken = s.lastTaken ∧ (creditOrder tag v a s).clock = s.clock
      ∧ (creditOrder tag v a s).tables = s.tables ∧ (creditOrder tag v a s).carriage = s.carriage
      ∧ (creditOrder tag v a s).gates = s.gates ∧ (creditOrder tag v a s).gateWaiting = s.gateWaiting
      ∧ (creditOrder tag v a s).scan = s.scan ∧ (creditOrder tag v a s).metering = s.metering
      ∧ (creditOrder tag v a s).billing = s.billing ∧ (creditOrder tag v a s).mgmt = s.mgmt
      ∧ (creditOrder tag v a s).store = s.store ∧ (creditOrder tag v a s).supply = s.supply
      ∧ (creditOrder tag v a s).loading = s.loading ∧ (creditOrder tag v a s).free = s.free :=
  ⟨rfl, rfl, rfl, rfl, rfl, rfl, rfl, rfl, rfl, rfl, rfl, rfl, rfl, rfl, rfl, rfl⟩

@[simp] theorem meterInterval_fields (t : Turnout) (x : CreditTarget) (v : Nat) (s : State) :
    (meterInterval t x v s).pending = s.pending ∧ (meterInterval t x v s).comms = s.comms
      ∧ (meterInterval t x v s).lastTaken = s.lastTaken ∧ (meterInterval t x v s).clock = s.clock
      ∧ (meterInterval t x v s).tables = s.tables ∧ (meterInterval t x v s).orders = s.orders
      ∧ (meterInterval t x v s).carriage = s.carriage ∧ (meterInterval t x v s).gates = s.gates
      ∧ (meterInterval t x v s).gateWaiting = s.gateWaiting ∧ (meterInterval t x v s).scan = s.scan
      ∧ (meterInterval t x v s).billing = s.billing ∧ (meterInterval t x v s).mgmt = s.mgmt
      ∧ (meterInterval t x v s).store = s.store ∧ (meterInterval t x v s).supply = s.supply
      ∧ (meterInterval t x v s).loading = s.loading ∧ (meterInterval t x v s).free = s.free :=
  ⟨rfl, rfl, rfl, rfl, rfl, rfl, rfl, rfl, rfl, rfl, rfl, rfl, rfl, rfl, rfl, rfl⟩

@[simp] theorem creditInflow_fields (v : Nat) (s : State) :
    (creditInflow v s).pending = s.pending ∧ (creditInflow v s).comms = s.comms
      ∧ (creditInflow v s).lastTaken = s.lastTaken ∧ (creditInflow v s).clock = s.clock
      ∧ (creditInflow v s).tables = s.tables ∧ (creditInflow v s).orders = s.orders
      ∧ (creditInflow v s).carriage = s.carriage ∧ (creditInflow v s).gates = s.gates
      ∧ (creditInflow v s).gateWaiting = s.gateWaiting ∧ (creditInflow v s).scan = s.scan
      ∧ (creditInflow v s).billing = s.billing ∧ (creditInflow v s).mgmt = s.mgmt
      ∧ (creditInflow v s).store = s.store ∧ (creditInflow v s).supply = s.supply
      ∧ (creditInflow v s).loading = s.loading ∧ (creditInflow v s).free = s.free :=
  ⟨rfl, rfl, rfl, rfl, rfl, rfl, rfl, rfl, rfl, rfl, rfl, rfl, rfl, rfl, rfl, rfl⟩

@[simp] theorem creditOutflow_fields (v : Nat) (s : State) :
    (creditOutflow v s).pending = s.pending ∧ (creditOutflow v s).comms = s.comms
      ∧ (creditOutflow v s).lastTaken = s.lastTaken ∧ (creditOutflow v s).clock = s.clock
      ∧ (creditOutflow v s).tables = s.tables ∧ (creditOutflow v s).orders = s.orders
      ∧ (creditOutflow v s).carriage = s.carriage ∧ (creditOutflow v s).gates = s.gates
      ∧ (creditOutflow v s).gateWaiting = s.gateWaiting ∧ (creditOutflow v s).scan = s.scan
      ∧ (creditOutflow v s).billing = s.billing ∧ (creditOutflow v s).mgmt = s.mgmt
      ∧ (creditOutflow v s).store = s.store ∧ (creditOutflow v s).supply = s.supply
      ∧ (creditOutflow v s).loading = s.loading ∧ (creditOutflow v s).free = s.free :=
  ⟨rfl, rfl, rfl, rfl, rfl, rfl, rfl, rfl, rfl, rfl, rfl, rfl, rfl, rfl, rfl, rfl⟩

@[simp] theorem removeCarriage_fields (r t : Nat) (s : State) :
    (removeCarriage r t s).pending = s.pending ∧ (removeCarriage r t s).comms = s.comms
      ∧ (removeCarriage r t s).lastTaken = s.lastTaken ∧ (removeCarriage r t s).clock = s.clock
      ∧ (removeCarriage r t s).tables = s.tables ∧ (removeCarriage r t s).orders = s.orders
      ∧ (removeCarriage r t s).gates = s.gates ∧ (removeCarriage r t s).gateWaiting = s.gateWaiting
      ∧ (removeCarriage r t s).scan = s.scan ∧ (removeCarriage r t s).metering = s.metering
      ∧ (removeCarriage r t s).billing = s.billing ∧ (removeCarriage r t s).mgmt = s.mgmt
      ∧ (removeCarriage r t s).store = s.store ∧ (removeCarriage r t s).supply = s.supply
      ∧ (removeCarriage r t s).loading = s.loading ∧ (removeCarriage r t s).free = s.free :=
  ⟨rfl, rfl, rfl, rfl, rfl, rfl, rfl, rfl, rfl, rfl, rfl, rfl, rfl, rfl, rfl, rfl⟩

/-! ## Fields that an update writes -/

@[simp] theorem setLevel_supply (mv : Nat) (s : State) : (setLevel mv s).supply = { s.supply with level := mv } := rfl

@[simp] theorem setStatus_supply (st : SupplyStatus) (s : State) :
    (setStatus st s).supply = { s.supply with status := st } := rfl

@[simp] theorem openRelay_supply (s : State) :
    (openRelay s).supply = { s.supply with retention := true, relayClosed := false } := rfl

@[simp] theorem setMgmt_mgmt (m : MgmtState) (s : State) : (setMgmt m s).mgmt = { s.mgmt with state := m } := rfl

@[simp] theorem mapGate_gates (t : Turnout) (f : GateRec → GateRec) (s : State) :
    (mapGate t f s).gates = putAt s.gates t (f (getAt s.gates t)) := rfl

@[simp] theorem mapStation_scan (x : Station) (f : StationRec → StationRec) (s : State) :
    (mapStation x f s).scan = { s.scan with stations := putAt s.scan.stations x (f (getAt s.scan.stations x)) } := rfl

@[simp] theorem mapCounters_metering (i : Fin 64) (f : Counters → Counters) (s : State) :
    (mapCounters i f s).metering =
      { s.metering with counters := putAt s.metering.counters i (f (getAt s.metering.counters i)) } := rfl

@[simp] theorem removeCarriage_carriage (r t : Nat) (s : State) :
    (removeCarriage r t s).carriage = dropCarriage r t s.carriage := rfl

@[simp] theorem countUnmatched_unmatched (s : State) :
    (countUnmatched s).comms.unmatched = min 65535 (s.comms.unmatched + 1) := rfl

@[simp] theorem clearFlags_flags (x : BitVec 16) (s : State) : (clearFlags x s).comms.flags = s.comms.flags &&& ~~~x :=
  rfl

/-! ## Port units -/

@[simp] theorem portOf_setPort_self (p : Port) (x : PortUnit) (c : Comms) : portOf p (setPort p x c) = x := by
  cases p <;> rfl

@[simp] theorem portOf_setPort_other (p : Port) (x : PortUnit) (c : Comms) :
    portOf (otherPort p) (setPort p x c) = portOf (otherPort p) c := by
  cases p <;> rfl

@[simp] theorem setPort_flags (p : Port) (x : PortUnit) (c : Comms) : (setPort p x c).flags = c.flags := by
  cases p <;> rfl

@[simp] theorem setPort_unmatched (p : Port) (x : PortUnit) (c : Comms) : (setPort p x c).unmatched = c.unmatched := by
  cases p <;> rfl

@[simp] theorem setPort_setPort (p : Port) (x y : PortUnit) (c : Comms) :
    setPort p y (setPort p x c) = setPort p y c := by
  cases p <;> rfl

@[simp] theorem setPort_portOf (p : Port) (c : Comms) : setPort p (portOf p c) c = c := by cases p <;> rfl

@[simp] theorem unitAt_mapUnit_self (p : Port) (f : PortUnit → PortUnit) (s : State) :
    unitAt p (mapUnit p f s) = f (unitAt p s) := by
  cases p <;> rfl

@[simp] theorem unitAt_mapUnit_other (p : Port) (f : PortUnit → PortUnit) (s : State) :
    unitAt (otherPort p) (mapUnit p f s) = unitAt (otherPort p) s := by
  cases p <;> rfl

@[simp] theorem mapUnit_mapUnit (p : Port) (f g : PortUnit → PortUnit) (s : State) :
    mapUnit p g (mapUnit p f s) = mapUnit p (fun x => g (f x)) s := by
  cases p <;> rfl

@[simp] theorem mapUnit_flags (p : Port) (f : PortUnit → PortUnit) (s : State) :
    (mapUnit p f s).comms.flags = s.comms.flags := by
  cases p <;> rfl

/-! ## Running -/

/-- A running part takes an event. -/
theorem whileRunning_runs {f : State → State} {s : State} (h : isRunning s = true) : whileRunning f s = f s := by
  simp [whileRunning, h]

/-- A part that is stopped or loading takes none. -/
theorem whileRunning_stopped {f : State → State} {s : State} (h : isRunning s = false) : whileRunning f s = s := by
  simp [whileRunning, h]

/-- Whether the part takes events depends on the supply status and the loading alone. -/
theorem isRunning_of_eq {s t : State} (h1 : t.supply.status = s.supply.status) (h2 : t.loading = s.loading) :
    isRunning t = isRunning s := by
  simp [isRunning, h1, h2]

/-! ## Steps -/

theorem step_of_pending {c : Instr} {rest : List Instr} {s : State} (h : s.pending = c :: rest) :
    step s = exec c { s with pending := rest } := by
  simp [step, h]

end Sys2Proof.Machine
end

