-- ==== Sys2Proof/Laws/Comms.lean ====
section
/-! SUPPORT. Laws/Comms.lean: transmit queues, flags and ALERTs, and the relation `Talk` of what the part may say. -/

namespace Sys2Proof.Machine

open Sys2Proof.Safety

/-! ## Raising flags -/

/-- The drop of a frame raises QUEUE DROP as every unit raises a flag, but that a drop of its own ALERT finds the flag
already set. -/
theorem raiseIn_set {x : AlertContext} {k : Flag} {c : Comms} (h : flagSet c.flags k = true) : raiseIn x k c = c := by
  simp [raiseIn, h]

theorem raise_set {k : Flag} {s : State} (h : flagSet s.comms.flags k = true) : raise k s = s := by
  simp [raise, raiseIn_set h]

theorem flagSet_addFlag_self (b : BitVec 16) (k : Flag) : flagSet (addFlag b k) k = true := by
  cases k <;> simp [flagSet, addFlag, flagIndex]

theorem flagSet_addFlag_of (b : BitVec 16) (j k : Flag) (h : flagSet b k = true) : flagSet (addFlag b j) k = true := by
  simp only [flagSet, addFlag] at *
  simp [h]

@[simp] theorem enqueueAt_flags (p : Port) (f : Frame) (c : Comms) : (enqueueAt p f c).flags = c.flags := by
  simp [enqueueAt]

/-- A flag that stands set has no further effect on a drop: the frame is placed and counted alone. -/
theorem raiseDrop_set {x : AlertContext} {c : Comms} (h : flagSet c.flags .queueDrop = true) : raiseDrop x c = c := by
  simp [raiseDrop, h]

/-- QUEUE DROP is raised as any other flag is. -/
theorem raiseDrop_eq_raiseIn (x : AlertContext) (c : Comms) : raiseDrop x c = raiseIn x .queueDrop c := by
  have hf : flagSet (enqueueAt .u (alertFrame x (addFlag c.flags .queueDrop) .queueDrop)
      { c with flags := addFlag c.flags .queueDrop }).flags .queueDrop = true := by
    simp [flagSet_addFlag_self]
  unfold raiseDrop raiseIn sendAlert placeIn
  split
  · rfl
  · dsimp only
    split
    · split
      · rw [raiseDrop_set hf]
      · rfl
    · rfl

/-- Where a frame arrives with no drop, it joins its queue and nothing else happens. -/
theorem place_room {p : Port} {f : Frame} {s : State} (h : (unitAt p s).queue.length < 8) :
    place p f s = mapUnit p (fun x => { x with queue := joinQueue f x.queue }) s := by
  have hw : wouldDrop f (portOf p s.comms) = false := by
    have : (portOf p s.comms).queue.length < queuePlaces := h
    simp [wouldDrop, enqueue, this]
  have he : portEnqueue f (portOf p s.comms)
      = { portOf p s.comms with queue := joinQueue f (portOf p s.comms).queue } := by
    have : (portOf p s.comms).queue.length < queuePlaces := h
    simp [portEnqueue, enqueue, this]
  simp [place, placeIn, hw, enqueueAt, he, mapUnit]

/-! ## Queue form (R21, R22) -/

theorem takeWhile_marked {q : List Frame} (h : q.Pairwise fun f g => g.marked = true → f.marked = true) :
    ∀ g ∈ q.dropWhile (·.marked), g.marked = false := by
  induction q with
  | nil => simp
  | cons f q ih =>
    rw [List.pairwise_cons] at h
    intro g hg
    by_cases hf : f.marked = true
    · simp only [List.dropWhile_cons, hf, if_true] at hg
      exact ih h.2 g hg
    · simp only [List.dropWhile_cons, hf] at hg
      rcases List.mem_cons.1 (by simpa using hg) with rfl | hg
      · simpa using hf
      · have := h.1 g hg
        cases hm : g.marked with
        | false => rfl
        | true => exact absurd (this hm) hf

/-- A queue in form is its marked frames and then its unmarked ones. -/
theorem queue_split {q : List Frame} (h : q.Pairwise fun f g => g.marked = true → f.marked = true) :
    ∃ ms us, q = ms ++ us ∧ (∀ g ∈ ms, g.marked = true) ∧ ∀ g ∈ us, g.marked = false :=
  ⟨q.takeWhile (·.marked), q.dropWhile (·.marked), (List.takeWhile_append_dropWhile ..).symm,
    fun g hg => by simpa using List.mem_takeWhile_imp hg, takeWhile_marked h⟩

theorem takeWhile_split {ms us : List Frame} (hm : ∀ g ∈ ms, g.marked = true) (hu : ∀ g ∈ us, g.marked = false) :
    (ms ++ us).takeWhile (·.marked) = ms ∧ (ms ++ us).dropWhile (·.marked) = us := by
  induction ms with
  | nil =>
    cases us with
    | nil => simp
    | cons u us => simp [hu u (by simp)]
  | cons m ms ih =>
    have h1 := hm m (by simp)
    have h2 := ih (fun g hg => hm g (by simp [hg]))
    simp [h1, h2.1, h2.2]

/-- Where a frame joins a queue that stands in two classes. -/
theorem joinQueue_split {f : Frame} {ms us : List Frame} (hm : ∀ g ∈ ms, g.marked = true)
    (hu : ∀ g ∈ us, g.marked = false) :
    joinQueue f (ms ++ us) = if f.marked then ms ++ f :: us else ms ++ us ++ [f] := by
  simp [joinQueue, takeWhile_split hm hu]

theorem dropNewestUnmarked_snoc {ms vs : List Frame} {last : Frame} (h : last.marked = false) :
    dropNewestUnmarked (ms ++ (vs ++ [last])) = ms ++ vs := by
  simp [dropNewestUnmarked, h]

theorem queueOk_iff_split {q : List Frame} :
    queueOk q ↔ q.length ≤ 8 ∧ ∃ ms us, q = ms ++ us ∧ (∀ g ∈ ms, g.marked = true) ∧ ∀ g ∈ us, g.marked = false := by
  constructor
  · exact fun h => ⟨h.1, queue_split h.2⟩
  · rintro ⟨hl, ms, us, rfl, hm, hu⟩
    refine ⟨hl, List.pairwise_append.2 ⟨?_, ?_, ?_⟩⟩
    · exact List.pairwise_of_forall_mem_list fun f hf g hg _ => hm f hf
    · exact List.pairwise_of_forall_mem_list fun f hf g hg h => by simp [hu g hg] at h
    · intro f hf g hg _; exact hm f hf

theorem queueOk_join {q : List Frame} (f : Frame) (hl : q.length < 8)
    (h : q.Pairwise fun f g => g.marked = true → f.marked = true) : queueOk (joinQueue f q) := by
  obtain ⟨ms, us, rfl, hm, hu⟩ := queue_split h
  rw [joinQueue_split hm hu]
  rw [queueOk_iff_split]
  cases hf : f.marked with
  | true =>
    refine ⟨by simp at hl ⊢; omega, ms ++ [f], us, by simp, ?_, hu⟩
    intro g hg
    rcases List.mem_append.1 hg with hg | hg
    · exact hm g hg
    · simp at hg; simpa [hg] using hf
  | false =>
    refine ⟨by simp at hl ⊢; omega, ms, us ++ [f], by simp, hm, ?_⟩
    intro g hg
    rcases List.mem_append.1 hg with hg | hg
    · exact hu g hg
    · simp at hg; simpa [hg] using hf

/-- A queue keeps its form whatever frame arrives. -/
theorem queueOk_enqueue {q : List Frame} (f : Frame) (h : queueOk q) : queueOk (enqueue f q).1 := by
  unfold enqueue
  split
  · next hl => exact queueOk_join f hl h.2
  · split
    · next hl ha =>
      obtain ⟨ms, us, rfl, hm, hu⟩ := queue_split h.2
      have hne : us ≠ [] := by
        rintro rfl
        simp only [Bool.and_eq_true, List.any_eq_true] at ha
        obtain ⟨g, hg, hgm⟩ := ha.2
        simp [hm g (by simpa using hg)] at hgm
      obtain ⟨vs, last, rfl⟩ : ∃ vs last, us = vs ++ [last] :=
        ⟨us.dropLast, us.getLast hne, (List.dropLast_append_getLast hne).symm⟩
      rw [dropNewestUnmarked_snoc (hu last (by simp))]
      refine queueOk_join f ?_ ?_
      · have := h.1
        simp at this ⊢
        omega
      · have := h.2
        rw [← List.append_assoc] at this
        exact (List.pairwise_append.1 this).1
    · exact h

/-! ## What the part may say -/

/-- `Talk c d`: the ports pass from `c` to `d` by frames that arrive at transmit queues, counters that rise and flags
that are written. Every unit but the line ports and the restart changes them so. -/
inductive Talk : Comms → Comms → Prop where
  | refl (c : Comms) : Talk c c
  | enqueued {c d : Comms} (p : Port) (f : Frame) : Talk c d → Talk c (enqueueAt p f d)
  | counted {c d : Comms} (p : Port) (f : LineCounts → LineCounts) : Talk c d → Talk c (countAt p f d)
  | unmatched {c d : Comms} (n : Nat) : Talk c d → Talk c { d with unmatched := n }
  | flagged {c d : Comms} (b : BitVec 16) : Talk c d → Talk c { d with flags := b }

theorem Talk.trans {a b c : Comms} (h : Talk a b) (h' : Talk b c) : Talk a c := by
  induction h' with
  | refl => exact h
  | enqueued p f _ ih => exact ih.enqueued p f
  | counted p f _ ih => exact ih.counted p f
  | unmatched n _ ih => exact ih.unmatched n
  | flagged b _ ih => exact ih.flagged b

theorem talk_sendAlert (x : AlertContext) (k : Flag) (c : Comms) : Talk c (sendAlert x k c) := by
  unfold sendAlert
  split
  · exact (Talk.refl c).enqueued _ _
  · exact Talk.refl c

theorem talk_raiseDrop (x : AlertContext) (c : Comms) : Talk c (raiseDrop x c) := by
  unfold raiseDrop
  split
  · exact Talk.refl c
  · exact ((Talk.refl c).flagged _).trans (talk_sendAlert _ _ _)

theorem talk_placeIn (x : AlertContext) (p : Port) (f : Frame) (c : Comms) : Talk c (placeIn x p f c) := by
  unfold placeIn
  split
  · exact ((Talk.refl c).enqueued p f).trans (talk_raiseDrop _ _)
  · exact (Talk.refl c).enqueued p f

theorem talk_raiseIn (x : AlertContext) (k : Flag) (c : Comms) : Talk c (raiseIn x k c) := by
  unfold raiseIn
  split
  · exact Talk.refl c
  · dsimp only
    split
    · exact ((Talk.refl c).flagged _).trans (talk_placeIn _ _ _ _)
    · exact (Talk.refl c).flagged _

/-- What a port unit shows to talk: its receiver, its line and its holding stay, and a queue in form keeps it. -/
theorem Talk.port {c d : Comms} (h : Talk c d) (p : Port) :
    (portOf p d).holding = (portOf p c).holding ∧ (portOf p d).receiver = (portOf p c).receiver
      ∧ (portOf p d).counter = (portOf p c).counter ∧ (portOf p d).active = (portOf p c).active
      ∧ (portOf p d).gapRaised = (portOf p c).gapRaised ∧ (portOf p d).inFlight = (portOf p c).inFlight
      ∧ (portOf p d).clashWait = (portOf p c).clashWait
      ∧ (queueOk (portOf p c).queue → queueOk (portOf p d).queue) := by
  induction h with
  | refl => simp
  | enqueued q f _ ih =>
    cases p <;> cases q <;> simp_all [enqueueAt, setPort, portOf, portEnqueue] <;>
      exact fun h => queueOk_enqueue f (ih.2.2.2.2.2.2.2 h)
  | counted q f _ ih => cases p <;> cases q <;> simp_all [countAt, setPort, portOf, withCounts]
  | unmatched n _ ih => cases p <;> simpa [portOf] using ih
  | flagged b _ ih => cases p <;> simpa [portOf] using ih

end Sys2Proof.Machine
end

