-- ==== Sys2Proof/Laws/Frames.lean ====
section
/-! SUPPORT. Laws/Frames.lean: for each shared operation, which parts of the state it can change. -/

namespace Sys2Proof.Machine

/-- The parts of the state but the queue of waiting commands. -/
inductive Part where
  | comms
  | lastTaken
  | clock
  | tables
  | orders
  | carriage
  | gates
  | gateWaiting
  | scan
  | metering
  | billing
  | mgmt
  | store
  | supply
  | loading
  | free
  deriving DecidableEq, Repr

/-- Two states agree on a part. -/
def Same (p : Part) (s t : State) : Prop :=
  match p with
  | .comms => t.comms = s.comms
  | .lastTaken => t.lastTaken = s.lastTaken
  | .clock => t.clock = s.clock
  | .tables => t.tables = s.tables
  | .orders => t.orders = s.orders
  | .carriage => t.carriage = s.carriage
  | .gates => t.gates = s.gates
  | .gateWaiting => t.gateWaiting = s.gateWaiting
  | .scan => t.scan = s.scan
  | .metering => t.metering = s.metering
  | .billing => t.billing = s.billing
  | .mgmt => t.mgmt = s.mgmt
  | .store => t.store = s.store
  | .supply => t.supply = s.supply
  | .loading => t.loading = s.loading
  | .free => t.free = s.free

/-- `t` comes of `s` by an operation that leaves the queue of waiting commands alone, changes no part but those named,
and changes the ports, if at all, by talk. -/
structure Within (ps : List Part) (s t : State) : Prop where
  pending : t.pending = s.pending
  keeps : ∀ p, p ∉ ps → Same p s t
  talks : Talk s.comms t.comms

theorem Same.refl (p : Part) (s : State) : Same p s s := by cases p <;> rfl

theorem Same.trans {p : Part} {s t u : State} (h : Same p s t) (h' : Same p t u) : Same p s u := by
  cases p <;> exact Eq.trans h' h

theorem Within.refl (ps : List Part) (s : State) : Within ps s s :=
  ⟨rfl, fun p _ => Same.refl p s, Talk.refl _⟩

theorem Within.trans {ps : List Part} {s t u : State} (h : Within ps s t) (h' : Within ps t u) : Within ps s u :=
  ⟨h'.pending.trans h.pending, fun p hp => (h.keeps p hp).trans (h'.keeps p hp), h.talks.trans h'.talks⟩

theorem Within.mono {ps qs : List Part} {s t : State} (h : Within ps s t) (hs : ps ⊆ qs) : Within qs s t :=
  ⟨h.pending, fun p hp => h.keeps p fun hm => hp (hs hm), h.talks⟩

/-- A state that differs in named parts, the ports not among them. -/
theorem within_quiet {ps : List Part} {s t : State} (h1 : t.pending = s.pending) (h2 : t.comms = s.comms)
    (h3 : ∀ p, p ∉ ps → Same p s t) : Within ps s t :=
  ⟨h1, h3, h2 ▸ Talk.refl _⟩

/-- A choice between two states that both stay within the parts named. -/
theorem within_ite {ps : List Part} {c : Prop} [Decidable c] {s t u : State} (h : Within ps s t)
    (h' : Within ps s u) : Within ps s (if c then t else u) := by
  split
  · exact h
  · exact h'

theorem within_foldl {α : Type} {ps : List Part} {f : State → α → State} (h : ∀ s a, Within ps s (f s a)) (l : List α)
    (s : State) : Within ps s (l.foldl f s) := by
  induction l generalizing s with
  | nil => exact Within.refl _ _
  | cons a l ih => exact (h s a).trans (ih (f s a))

theorem whileRunning_within {ps : List Part} {f : State → State} {s : State} (h : Within ps s (f s)) :
    Within ps s (whileRunning f s) :=
  within_ite h (Within.refl _ _)

/-! ## Ports, frames and flags -/

theorem talks_within {s t : State} (h1 : t.pending = s.pending) (h2 : Talk s.comms t.comms)
    (h3 : t = { s with comms := t.comms }) : Within [.comms] s t := by
  refine ⟨h1, ?_, h2⟩
  intro p hp
  rw [h3]
  cases p <;> first | rfl | simp at hp

theorem place_within (p : Port) (f : Frame) (s : State) : Within [.comms] s (place p f s) :=
  talks_within rfl (talk_placeIn _ _ _ _) rfl

theorem raise_within (k : Flag) (s : State) : Within [.comms] s (raise k s) :=
  talks_within rfl (talk_raiseIn _ _ _) rfl

theorem count_within (p : Port) (f : LineCounts → LineCounts) (s : State) : Within [.comms] s (count p f s) :=
  talks_within rfl ((Talk.refl _).counted _ _) rfl

theorem countMisrouted_within (p : Port) (s : State) : Within [.comms] s (countMisrouted p s) := count_within _ _ _

theorem countRefusedSource_within (p : Port) (s : State) : Within [.comms] s (countRefusedSource p s) :=
  count_within _ _ _

theorem countUnmatched_within (s : State) : Within [.comms] s (countUnmatched s) :=
  talks_within rfl ((Talk.refl _).unmatched _) rfl

theorem clearFlags_within (x : BitVec 16) (s : State) : Within [.comms] s (clearFlags x s) :=
  talks_within rfl ((Talk.refl _).flagged _) rfl

theorem zeroCounts_within (s : State) : Within [.comms] s (zeroCounts s) :=
  talks_within rfl ((((Talk.refl _).counted .u fun _ => {}).counted .d fun _ => {}).unmatched 0) rfl

theorem queueFor_office (s : State) : queueFor office s = .u := by simp [queueFor, office]

/-- A frame for the office is placed in the U queue. -/
theorem sendOffice_eq (k : Nat) (b : List Byte) (m : Bool) (s : State) :
    sendOffice k b m s = place .u (originate office k b m s) s := by
  simp only [sendOffice, send, queueFor_office]

theorem queueFor_station {s : State} (h : ownReach s ≠ 0) (k : Nat) : queueFor (stationAddr s k) s = .d := by
  simp [queueFor, stationAddr, h]

/-- An assigned part's frame for a station of its reach is placed in the D queue. -/
theorem sendStation_assigned {s : State} (h : ownReach s ≠ 0) (x k : Nat) (b : List Byte) (m : Bool) :
    sendStation x k b m s = place .d (originate (stationAddr s x) k b m s) s := by
  simp only [sendStation, send, queueFor_station h]

theorem send_within (d : Addr) (k : Nat) (b : List Byte) (m : Bool) (s : State) : Within [.comms] s (send d k b m s) :=
  place_within _ _ _

theorem sendOffice_within (k : Nat) (b : List Byte) (m : Bool) (s : State) : Within [.comms] s (sendOffice k b m s) :=
  place_within _ _ _

theorem sendStation_within (x k : Nat) (b : List Byte) (m : Bool) (s : State) :
    Within [.comms] s (sendStation x k b m s) :=
  place_within _ _ _

theorem sendNotice_within (t : Turnout) (b : List Byte) (m : Bool) (s : State) :
    Within [.comms] s (sendNotice t b m s) :=
  place_within _ _ _

theorem sendRefused_within (t : Turnout) (a b c d : Nat) (m : Bool) (s : State) :
    Within [.comms] s (sendRefused t a b c d m s) :=
  place_within _ _ _

theorem sendRelease_within (o : OrderRec) (t : Nat) (s : State) : Within [.comms] s (sendRelease o t s) :=
  place_within _ _ _

theorem drawFor_within (k n : Nat) (s : State) : Within [.free] s (drawFor k n s) := by
  unfold drawFor
  split
  · exact Within.refl _ _
  · exact within_quiet rfl rfl fun p hp => by cases p <;> first | rfl | simp at hp

theorem sendEnded_within (o : OrderRec) (c : EndCause) (s : State) : Within [.comms, .free] s (sendEnded o c s) :=
  ((sendNotice_within _ _ _ _).mono (by decide)).trans ((drawFor_within _ _ _).mono (by decide))

/-- The clock's raising of reached times writes the raised lists and the frost mark alone. -/
theorem raiseDue_within (s : State) : Within [.clock, .orders, .carriage] s (raiseDue s) := by
  unfold raiseDue
  split
  · exact Within.refl _ _
  · exact within_quiet rfl rfl fun p hp => by cases p <;> first | rfl | simp at hp

theorem raiseDue_clock (s : State) :
    (raiseDue s).clock = { s.clock with frostEndRaised := (raiseDue s).clock.frostEndRaised } := by
  unfold raiseDue; split <;> rfl

@[simp] theorem raiseDue_table (s : State) : (raiseDue s).orders.table = s.orders.table := by
  unfold raiseDue; split <;> rfl

@[simp] theorem raiseDue_list (s : State) : (raiseDue s).carriage.list = s.carriage.list := by
  unfold raiseDue; split <;> rfl

/-! ## Gates -/

/-- The parts that a gate command can change. -/
abbrev gateParts : List Part := [.comms, .gates, .gateWaiting]

theorem mapGate_within (t : Turnout) (f : GateRec → GateRec) (s : State) : Within [.gates] s (mapGate t f s) :=
  within_quiet rfl rfl fun p hp => by cases p <;> first | rfl | simp at hp

/-- A GATE SET places one frame, writes the gate record and withdraws a waiting GATE SET, or is passed over. -/
theorem gateSet_within (t : Turnout) (n : Nat) (m d : Bool) (s : State) : Within gateParts s (gateSet t n m d s) := by
  unfold gateSet
  split
  · exact Within.refl _ _
  · refine ⟨rfl, fun p hp => ?_, talk_placeIn _ _ _ _⟩
    cases p <;> first | rfl | simp at hp

theorem requestOpening_within (t : Turnout) (n : Nat) (c : OrderClass) (s : State) :
    Within gateParts s (requestOpening t n c s) := by
  unfold requestOpening
  split
  · exact Within.refl _ _
  · exact gateSet_within _ _ _ _ _

theorem requestClose_within (t : Turnout) (a : Nat) (c : OrderClass) (s : State) :
    Within gateParts s (requestClose t a c s) := by
  unfold requestClose
  split
  · exact Within.refl _ _
  · exact Within.refl _ _
  · exact (gateSet_within _ _ _ _ _).trans ((mapGate_within _ _ _).mono (by decide))

theorem checkCommand_within (t : Turnout) (s : State) : Within gateParts s (checkCommand t s) := by
  unfold checkCommand
  split
  · split
    · exact gateSet_within _ _ _ _ _
    · exact gateSet_within _ _ _ _ _
    · exact Within.refl _ _
  · exact Within.refl _ _

theorem gateWaiting_within (l : List Turnout) (s : State) : Within gateParts s { s with gateWaiting := l } :=
  within_quiet rfl rfl fun p hp => by cases p <;> first | rfl | simp at hp

theorem placeWaiting_within (s : State) : Within gateParts s (placeWaiting s) := by
  unfold placeWaiting
  split
  · exact Within.refl _ _
  · exact (gateWaiting_within _ s).trans (gateSet_within _ _ _ _ _)

theorem placeWhileRoom_within (k : Nat) (s : State) : Within gateParts s (placeWhileRoom k s) := by
  induction k generalizing s with
  | zero => exact Within.refl _ _
  | succ k ih =>
    unfold placeWhileRoom
    split
    · exact (placeWaiting_within s).trans (ih _)
    · exact Within.refl _ _

theorem startGates_within (s : State) : Within gateParts s (startGates s) := by
  unfold startGates
  split
  · exact Within.refl _ _
  · exact (gateWaiting_within _ s).trans (placeWhileRoom_within _ _)

theorem takeReading_within (t : Turnout) (n : Nat) (s : State) : Within gateParts s (takeReading t n s) := by
  unfold takeReading
  split
  · exact gateSet_within _ _ _ _ _
  · exact Within.refl _ _

theorem enterFault_within (t : Turnout) (c : FaultCause) (s : State) : Within gateParts s (enterFault t c s) :=
  (((mapGate_within _ _ _).mono (by decide)).trans (gateSet_within _ _ _ _ _)).trans
    ((raise_within _ _).mono (by decide))

/-! ## Order ends -/

/-- The parts that the end of an order can change. -/
abbrev endParts : List Part := [.comms, .gates, .gateWaiting, .orders, .free]

theorem orders_within (u : OrderUnit) (s : State) : Within [.orders] s { s with orders := u } :=
  within_quiet rfl rfl fun p hp => by cases p <;> first | rfl | simp at hp

theorem closeForEnd_within (o : OrderRec) (s : State) : Within gateParts s (closeForEnd o s) :=
  within_ite (requestClose_within _ _ _ _) (Within.refl _ _)

theorem endOrder_within (c : EndCause) (o : OrderRec) (s : State) : Within endParts s (endOrder c o s) := by
  have h : Within endParts s (sendEnded o c { closeForEnd o s with orders := dropOrder o.tag (closeForEnd o s).orders }) :=
    (((closeForEnd_within o s).mono (by decide)).trans ((orders_within _ _).mono (by decide))).trans
      ((sendEnded_within _ _ _).mono (by decide))
  unfold endOrder
  split
  · exact h
  · exact h.trans ((sendRelease_within _ _ _).mono (by decide))

theorem endTag_within (c : EndCause) (s : State) (tag : Nat) : Within endParts s (endTag c s tag) := by
  unfold endTag
  split
  · exact endOrder_within _ _ _
  · exact Within.refl _ _

theorem endTags_within (c : EndCause) (tags : List Nat) (s : State) : Within endParts s (endTags c tags s) :=
  within_foldl (endTag_within c) tags s

theorem endRunning_within (c : EndCause) (t : Turnout) (s : State) : Within endParts s (endRunning c t s) := by
  unfold endRunning
  split
  · exact endOrder_within _ _ _
  · exact Within.refl _ _

theorem timerFault_within (t : Turnout) (c : FaultCause) (s : State) : Within endParts s (timerFault t c s) :=
  ((enterFault_within t c s).mono (by decide)).trans (endRunning_within _ _ _)

theorem lockoutOf_within (t : Turnout) (r : GateReport) (s : State) : Within endParts s (lockoutOf t r s) :=
  within_ite (Within.refl _ _) (endRunning_within _ _ _)

theorem wellFormedReport_within (t : Turnout) (r : GateReport) (s : State) :
    Within endParts s (wellFormedReport t r s) := by
  unfold wellFormedReport
  refine Within.trans ((mapGate_within t (reportedGate r) s).mono (by decide)) ?_
  dsimp only
  split
  · unfold reportInFault
    refine Within.trans ?_ (lockoutOf_within _ _ _)
    exact within_ite ((mapGate_within _ _ _).mono (by decide)) (Within.refl _ _)
  · unfold reportOutOfFault
    split
    · exact (((enterFault_within _ _ _).mono (by decide)).trans (lockoutOf_within _ _ _)).trans
        (endRunning_within _ _ _)
    · exact ((mapGate_within _ _ _).mono (by decide)).trans (lockoutOf_within _ _ _)
    · exact ((mapGate_within _ _ _).mono (by decide)).trans (lockoutOf_within _ _ _)
    · exact lockoutOf_within _ _ _

theorem takeReport_within (t : Turnout) (b : List Byte) (s : State) : Within endParts s (takeReport t b s) := by
  unfold takeReport
  split
  · exact (countRefusedSource_within _ _).mono (by decide)
  · exact wellFormedReport_within _ _ _

theorem bumpTag_within (a b n : Nat) (s : State) (tag : Nat) : Within endParts s (bumpTag a b n s tag) := by
  unfold bumpTag
  split
  · exact Within.refl _ _
  · exact within_ite (endOrder_within _ _ _) (Within.refl _ _)

theorem bump82_within (f : OrderRec) (s : State) : Within endParts s (bump82 f s) :=
  within_foldl (bumpTag_within _ _ _) _ s

theorem shedTag_within (n : Nat) (s : State) (tag : Nat) : Within endParts s (shedTag n s tag) := by
  unfold shedTag
  split
  · exact Within.refl _ _
  · exact within_ite (endOrder_within _ _ _) (Within.refl _ _)

theorem shed_within (n : Nat) (s : State) : Within endParts s (shed n s) := by
  have h : Within endParts s ((shedOrder s.orders.table).foldl (shedTag n) s) := within_foldl (shedTag_within n) _ s
  unfold shed
  exact within_ite (h.trans ((raise_within _ _).mono (by decide))) h

/-! ## The order unit -/

/-- The parts that the order unit's own events can change. -/
abbrev orderParts : List Part :=
  [.comms, .gates, .gateWaiting, .orders, .carriage, .clock, .metering, .free]

theorem mapCounters_within (i : Fin 64) (f : Counters → Counters) (s : State) :
    Within [.metering] s (mapCounters i f s) :=
  within_quiet rfl rfl fun p hp => by cases p <;> first | rfl | simp at hp

theorem enterStart_within (a : Nat) (s : State) : Within [.metering] s (enterStart a s) := by
  unfold enterStart
  split
  · exact mapCounters_within _ _ _
  · exact Within.refl _ _

theorem lapse_within (o : OrderRec) (s : State) : Within orderParts s (lapse o s) :=
  ((((orders_within _ s).mono (by decide)).trans ((sendNotice_within _ _ _ _).mono (by decide))).trans
    ((sendRelease_within _ _ _).mono (by decide))).trans ((raise_within _ _).mono (by decide))

theorem runOrder_within (o : OrderRec) (q : Nat) (s : State) : Within orderParts s (runOrder o q s) :=
  ((((orders_within _ s).mono (by decide)).trans ((enterStart_within _ _).mono (by decide))).trans
    ((requestOpening_within _ _ _ _).mono (by decide))).trans
      (((sendNotice_within _ _ _ _).mono (by decide)).trans ((raiseDue_within _).mono (by decide)))

theorem startOrder_within (o : OrderRec) (s : State) : Within orderParts s (startOrder o s) := by
  unfold startOrder
  split
  · split
    · exact (endOrder_within _ _ _).mono (by decide)
    · exact runOrder_within _ _ _
  · exact Within.refl _ _

theorem takeOrderEvent_within (k : OrderEventKind) {f : OrderRec → State → State}
    (h : ∀ o s, Within orderParts s (f o s)) (s : State) : Within orderParts s (takeOrderEvent k f s) := by
  unfold takeOrderEvent
  split
  · exact ((orders_within _ s).mono (by decide)).trans (h _ _)
  · exact Within.refl _ _

theorem admitOrder_within (t : Turnout) (q : OrderRequest) (s : State) : Within orderParts s (admitOrder t q s) :=
  ((((orders_within _ s).mono (by decide)).trans ((sendNotice_within _ _ _ _).mono (by decide))).trans
    ((sendOffice_within _ _ _ _).mono (by decide))).trans ((raiseDue_within _).mono (by decide))

theorem takeOrder_within (t : Turnout) (b : List Byte) (s : State) : Within orderParts s (takeOrder t b s) := by
  unfold takeOrder
  split
  · exact (sendRefused_within _ _ _ _ _ _ _).mono (by decide)
  · split
    · exact (sendRefused_within _ _ _ _ _ _ _).mono (by decide)
    · exact admitOrder_within _ _ _

theorem confirmOrder_within (o : OrderRec) (s : State) : Within orderParts s (confirmOrder o s) := by
  refine Within.trans (t := { s with orders := confirmRecord o.tag s.orders }) ((orders_within _ s).mono (by decide)) ?_
  refine Within.trans (t := if isFrost o.cls then bump82 o { s with orders := confirmRecord o.tag s.orders }
      else { s with orders := confirmRecord o.tag s.orders }) ?_ ?_
  · exact within_ite ((bump82_within _ _).mono (by decide)) (Within.refl _ _)
  · exact ((sendNotice_within _ _ _ _).mono (by decide)).trans ((raiseDue_within _).mono (by decide))

theorem takeConfirm_within (b : List Byte) (s : State) : Within orderParts s (takeConfirm b s) := by
  unfold takeConfirm
  split
  · split
    · exact confirmOrder_within _ _
    · exact (countUnmatched_within _).mono (by decide)
  · exact (countUnmatched_within _).mono (by decide)

theorem takeRefuse_within (b : List Byte) (s : State) : Within orderParts s (takeRefuse b s) := by
  unfold takeRefuse
  split
  · split
    · exact ((orders_within _ s).mono (by decide)).trans ((sendRefused_within _ _ _ _ _ _ _).mono (by decide))
    · exact (countUnmatched_within _).mono (by decide)
  · exact (countUnmatched_within _).mono (by decide)

theorem takeCancel_within (t : Turnout) (b : List Byte) (s : State) : Within orderParts s (takeCancel t b s) := by
  unfold takeCancel
  split
  · split
    · exact (endOrder_within _ _ _).mono (by decide)
    · exact (sendRefused_within _ _ _ _ _ _ _).mono (by decide)
  · exact (sendRefused_within _ _ _ _ _ _ _).mono (by decide)

/-! ## The carriage unit -/

/-- The parts that the carriage unit can change. -/
abbrev carriageParts : List Part := [.comms, .clock, .orders, .carriage]

theorem carriage_within (u : CarriageUnit) (s : State) : Within [.carriage] s { s with carriage := u } :=
  within_quiet rfl rfl fun p hp => by cases p <;> first | rfl | simp at hp

theorem removeCarriage_within (r t : Nat) (s : State) : Within carriageParts s (removeCarriage r t s) :=
  (carriage_within _ s).mono (by decide)

theorem firmCarriage_within (r t : Nat) (s : State) : Within carriageParts s (firmCarriage r t s) :=
  ((carriage_within _ s).mono (by decide)).trans ((raiseDue_within _).mono (by decide))

theorem shortenCarriage_within (r t x : Nat) (s : State) : Within carriageParts s (shortenCarriage r t x s) :=
  ((carriage_within _ s).mono (by decide)).trans ((raiseDue_within _).mono (by decide))

theorem bookDemand_within (d : DemandBody) (s : State) : Within carriageParts s (bookDemand d s) :=
  ((carriage_within _ s).mono (by decide)).trans ((raiseDue_within _).mono (by decide))

theorem refuseDemand_within (d : DemandBody) (n : Nat) (s : State) : Within carriageParts s (refuseDemand d n s) :=
  ((send_within _ _ _ _ s).mono (by decide)).trans ((raise_within _ _).mono (by decide))

theorem passDemand_within (f : Frame) (s : State) : Within carriageParts s (passDemand f s).1 := by
  unfold passDemand
  split
  · exact (countUnmatched_within _).mono (by decide)
  · dsimp only
    split
    · exact refuseDemand_within _ _ _
    · exact (countUnmatched_within _).mono (by decide)
    · exact Within.refl _ _
    · exact bookDemand_within _ _

theorem passConfirm_within (f : Frame) (s : State) : Within carriageParts s (passConfirm f s) := by
  unfold passConfirm
  split
  · exact (countUnmatched_within _).mono (by decide)
  · exact within_ite (firmCarriage_within _ _ _) ((countUnmatched_within _).mono (by decide))

theorem passRefuse_within (f : Frame) (s : State) : Within carriageParts s (passRefuse f s) := by
  unfold passRefuse
  split
  · exact (countUnmatched_within _).mono (by decide)
  · exact within_ite (removeCarriage_within _ _ _) ((countUnmatched_within _).mono (by decide))

theorem releaseRecord_within (r t x : Nat) (s : State) : Within carriageParts s (releaseRecord r t x s) := by
  unfold releaseRecord
  split
  · exact (countUnmatched_within _).mono (by decide)
  · split
    · exact removeCarriage_within _ _ _
    · exact within_ite (shortenCarriage_within _ _ _ _) (removeCarriage_within _ _ _)

theorem passRelease_within (f : Frame) (s : State) : Within carriageParts s (passRelease f s).1 := by
  unfold passRelease
  split
  · exact (countUnmatched_within _).mono (by decide)
  · exact releaseRecord_within _ _ _ _

theorem takeCarriageEvent_within (k : CarriageEventKind) (s : State) :
    Within carriageParts s (takeCarriageEvent k s) := by
  unfold takeCarriageEvent
  split
  · exact Within.refl _ _
  · exact within_ite (removeCarriage_within _ _ _) (Within.refl _ _)

/-! ## The store -/

/-- A region programmed with its complete mark is found complete, one without it is not (R178). -/
theorem found_programmed {α : Type} (bytes : α → List Byte) (mark : Bool) (h : Header) (x : α) :
    found bytes (programmed bytes mark h x) = if mark then some (h, x) else none := by
  cases mark <;> simp [found, programmed]

/-- A region is found exactly when it is complete. -/
theorem found_iff {α : Type} (bytes : α → List Byte) (x : Stored α) (h : Header) (c : α) :
    found bytes x = some (h, c) ↔ Sys2Proof.Safety.Complete bytes x h c := by
  unfold found Sys2Proof.Safety.Complete
  cases x with
  | none => simp
  | some r =>
    obtain ⟨h', c', k, m⟩ := r
    constructor
    · intro e
      dsimp only at e
      by_cases hc : (m && k == regionCheck h' (bytes c')) = true
      · rw [if_pos hc] at e
        simp only [Bool.and_eq_true, beq_iff_eq] at hc
        simp only [Option.some.injEq, Prod.mk.injEq] at e
        obtain ⟨rfl, rfl⟩ := e
        rw [hc.1, hc.2]
        rfl
      · rw [if_neg hc] at e
        simp at e
    · intro e
      simp only [Option.some.injEq, Region.mk.injEq] at e
      obtain ⟨rfl, rfl, rfl, rfl⟩ := e
      simp [regionCheck, regionHeaderBytes]

theorem found_none {α : Type} (bytes : α → List Byte) (x : Stored α) :
    found bytes x = none ↔ Sys2Proof.Safety.Incomplete bytes x := by
  unfold Sys2Proof.Safety.Incomplete
  rw [Option.eq_none_iff_forall_not_mem]
  constructor
  · intro h c d hc
    exact h (c, d) ((found_iff _ _ _ _).2 hc)
  · rintro h ⟨c, d⟩ hc
    exact h c d ((found_iff _ _ _ _).1 hc)

/-- The parts that a store operation's beginning can change. -/
abbrev storeParts : List Part := [.store, .free]

theorem takeSequence_within (s : State) : Within storeParts s (takeSequence s) := by
  unfold takeSequence
  split <;> exact within_quiet rfl rfl fun p hp => by cases p <;> first | rfl | simp at hp

theorem store_within (x : Store) (s : State) : Within [.store] s { s with store := x } :=
  within_quiet rfl rfl fun p hp => by cases p <;> first | rfl | simp at hp

theorem beginWrite_within (n : Nat) (i : Image) (c : Option Byte) (b : Bool) (s : State) :
    Within storeParts s (beginWrite n i c b s) :=
  (takeSequence_within s).trans ((store_within _ _).mono (by decide))

theorem beginSnapshot_within (s : State) : Within storeParts s (beginSnapshot s) :=
  ((store_within _ s).mono (by decide)).trans (beginWrite_within _ _ _ _ _)

theorem requestSnapshot_within (s : State) : Within storeParts s (requestSnapshot s) := by
  unfold requestSnapshot
  split
  · exact Within.refl _ _
  · split
    · exact beginSnapshot_within _
    · exact (store_within _ s).mono (by decide)

theorem beginErase_within (r : RegionId) (s : State) : Within storeParts s (beginErase r s) :=
  (store_within _ s).mono (by decide)

theorem beginWipeWrite_within (r : RegionId) (s : State) : Within storeParts s (beginWipeWrite r s) :=
  ((store_within _ s).mono (by decide)).trans (beginWrite_within _ _ _ _ _)

theorem requestWipe_within (s : State) : Within storeParts s (requestWipe s) := by
  unfold requestWipe
  split
  · exact beginErase_within _ _
  · exact (store_within _ s).mono (by decide)

/-! ## Scan and metering -/

/-- The parts that the placing of a poll can change. -/
abbrev scanParts : List Part := [.comms, .scan]

theorem scan_within (x : ScanUnit) (s : State) : Within [.scan] s { s with scan := x } :=
  within_quiet rfl rfl fun p hp => by cases p <;> first | rfl | simp at hp

theorem mapStation_within (x : Station) (f : StationRec → StationRec) (s : State) :
    Within [.scan] s (mapStation x f s) :=
  scan_within _ s

theorem placePoll_within (x : Station) (a b : Nat) (l : List Station) (s : State) :
    Within scanParts s (placePoll x a b l s) :=
  ((sendStation_within _ _ _ _ s).mono (by decide)).trans ((scan_within _ _).mono (by decide))

theorem beginScan_within (s : State) : Within scanParts s (beginScan s) := by
  unfold beginScan
  dsimp only
  split
  · exact (scan_within _ s).mono (by decide)
  · exact ((scan_within _ s).mono (by decide)).trans (placePoll_within _ _ _ _ _)

theorem completePoll_within (s : State) : Within scanParts s (completePoll s) := by
  unfold completePoll
  split
  · exact Within.refl _ _
  · exact placePoll_within _ _ _ _ _
  · exact within_ite (beginScan_within _) ((scan_within _ s).mono (by decide))

theorem intervalExpiry_within (s : State) : Within scanParts s (intervalExpiry s) := by
  have h : ∀ x, Within scanParts s { s with scan := x } := fun x => (scan_within x s).mono (by decide)
  unfold intervalExpiry
  split
  · exact Within.refl _ _
  · dsimp only
    split
    · exact (h _).trans (beginScan_within _)
    · split
      · exact h _
      · exact (h _).trans ((raise_within _ _).mono (by decide))

theorem missPoll_within (x : Station) (s : State) : Within scanParts s (missPoll x s) := by
  have h : Within scanParts s (mapStation x missedStation s) := (mapStation_within _ _ s).mono (by decide)
  refine Within.trans (t := if becomesLost (getAt s.scan.stations x) then
      raise .stationLost (mapStation x missedStation s) else mapStation x missedStation s) ?_ (completePoll_within _)
  exact within_ite (h.trans ((raise_within _ _).mono (by decide))) h

theorem pollTimeout_within (s : State) : Within scanParts s (pollTimeout s) := by
  unfold pollTimeout
  split
  · exact missPoll_within _ _
  · exact Within.refl _ _

/-- The parts that a reading can change. -/
abbrev readingParts : List Part := [.comms, .scan, .gates, .gateWaiting, .orders, .metering, .free]

theorem metering_within (x : Metering) (s : State) : Within [.metering] s { s with metering := x } :=
  within_quiet rfl rfl fun p hp => by cases p <;> first | rfl | simp at hp

theorem meterInterval_within (t : Turnout) (x : CreditTarget) (v : Nat) (s : State) :
    Within [.metering] s (meterInterval t x v s) :=
  metering_within _ s

theorem creditOrder_within (tag v a : Nat) (s : State) : Within [.orders] s (creditOrder tag v a s) :=
  orders_within _ s

theorem creditInterval_within (t : Turnout) (v : Nat) (s : State) :
    Within [.metering, .orders, .comms] s (creditInterval t v s).1 := by
  have h : ∀ x, Within [.metering, .orders, .comms] s (meterInterval t x v s) :=
    fun x => (meterInterval_within _ _ _ s).mono (by decide)
  unfold creditInterval
  split
  · unfold creditToOrder
    dsimp only
    split
    · exact (h _).trans ((creditOrder_within _ _ _ _).mono (by decide))
    · exact ((h _).trans ((mapCounters_within _ _ _).mono (by decide))).trans
        ((creditOrder_within _ _ _ _).mono (by decide))
  · exact (h _).trans ((mapCounters_within _ _ _).mono (by decide))
  · exact within_ite (h _) ((h _).trans ((raise_within _ _).mono (by decide)))

theorem raiseAllotment_within (e : Option (List Nat)) (s : State) : Within [.comms] s (raiseAllotment e s) :=
  within_ite (raise_within _ _) (Within.refl _ _)

theorem endsAndTrim_within (t : Turnout) (n : Nat) (tags : List Nat) (s : State) :
    Within endParts s (endsAndTrim t n tags s) := by
  unfold endsAndTrim
  refine within_ite ((endTags_within _ _ _).trans ((takeReading_within _ _ _).mono (by decide))) ?_
  have h : Within endParts s { s with free := s.free + 1 } :=
    within_quiet rfl rfl fun p hp => by cases p <;> first | rfl | simp at hp
  exact ((h.trans (endTags_within _ _ _)).trans ((takeReading_within _ _ _).mono (by decide))).trans
    (endTags_within _ _ _)

theorem handTurnoutInterval_within (t : Turnout) (v n : Nat) (s : State) :
    Within readingParts s (handTurnoutInterval t v n s) :=
  (((creditInterval_within t v s).mono (by decide)).trans ((raiseAllotment_within _ _).mono (by decide))).trans
    ((endsAndTrim_within _ _ _ _).mono (by decide))

theorem handOn_within (x : Station) (v : Option Nat) (n : Nat) (s : State) : Within readingParts s (handOn x v n s) := by
  unfold handOn
  split
  · exact handTurnoutInterval_within _ _ _ _
  · exact (takeReading_within _ _ _).mono (by decide)
  · exact within_ite ((metering_within _ s).mono (by decide)) ((metering_within _ s).mono (by decide))
  · exact Within.refl _ _

theorem acceptReading_within (x : Station) (n : Nat) (s : State) : Within readingParts s (acceptReading x n s) := by
  refine Within.trans (t := if isOffRating x n s then raise .offRating s else s)
    (within_ite ((raise_within _ s).mono (by decide)) (Within.refl _ _)) ?_
  exact (((mapStation_within _ _ _).mono (by decide)).trans ((completePoll_within _).mono (by decide))).trans
    (handOn_within _ _ _ _)

theorem takeHeadReading_within (x : Station) (b : List Byte) (s : State) :
    Within readingParts s (takeHeadReading x b s) := by
  unfold takeHeadReading
  split
  · split
    · split
      · exact acceptReading_within _ _ _
      · exact (missPoll_within _ _).mono (by decide)
    · exact (countRefusedSource_within _ _).mono (by decide)
  · exact (countRefusedSource_within _ _).mono (by decide)

/-! ## Billing -/

/-- The parts that a period close can change. -/
abbrev closeParts : List Part := [.comms, .scan, .metering, .billing, .store, .free]

theorem billing_within (x : Billing) (s : State) : Within [.billing] s { s with billing := x } :=
  within_quiet rfl rfl fun p hp => by cases p <;> first | rfl | simp at hp

theorem cutMetering_within (p : Nat) (s : State) : Within [.scan, .metering] s (cutMetering p s) :=
  within_quiet rfl rfl fun p hp => by cases p <;> first | rfl | simp at hp

theorem completeClose_within (h : Bool) (p : Nat) (l : List Nat) (s : State) :
    Within closeParts s (completeClose h p l s) :=
  (((cutMetering_within p s).mono (by decide)).trans ((billing_within _ _).mono (by decide))).trans
    ((requestSnapshot_within _).mono (by decide))

theorem completionTest_within (h : Bool) (k : Nat) (s : State) : Within closeParts s (completionTest h k s) := by
  induction k generalizing s with
  | zero => exact Within.refl _ _
  | succ k ih =>
    unfold completionTest
    split
    · exact Within.refl _ _
    · split
      · exact (completeClose_within _ _ _ _).trans (ih _)
      · exact (raise_within _ _).mono (by decide)

theorem takeClose_within (p : Nat) (s : State) : Within closeParts s (takeClose p s) := by
  have h : ∀ x, Within closeParts s { s with billing := x } := fun x => (billing_within x s).mono (by decide)
  have r : ∀ t, Within closeParts t (raise .closeHeld t) := fun t => (raise_within _ t).mono (by decide)
  unfold takeClose
  dsimp only
  split
  · exact (h _).trans (completionTest_within _ _ _)
  · split
    · exact ((h _).trans (r _)).trans (completionTest_within _ _ _)
    · exact (r _).trans (completionTest_within _ _ _)

theorem periodCloseEvent_within (s : State) : Within closeParts s (periodCloseEvent s) := by
  unfold periodCloseEvent
  split
  · exact Within.refl _ _
  · exact ((billing_within _ s).mono (by decide)).trans (takeClose_within _ _)

theorem testAfterCollect_within (s : State) : Within closeParts s (testAfterCollect s) := completionTest_within _ _ _

end Sys2Proof.Machine
end

