-- ==== Sys2Proof/Laws/Commands.lean ====
section
/-! SUPPORT. Laws/Commands.lean: which parts of the state the clock, the line ports, a request, a frame and a passage
of the supply can change. -/

namespace Sys2Proof.Machine

/-- As `Within`, without a claim on how the ports change. -/
structure Keeps (ps : List Part) (s t : State) : Prop where
  pending : t.pending = s.pending
  keeps : ∀ p, p ∉ ps → Same p s t

theorem Within.toKeeps {ps : List Part} {s t : State} (h : Within ps s t) : Keeps ps s t := ⟨h.pending, h.keeps⟩

theorem Keeps.refl (ps : List Part) (s : State) : Keeps ps s s := (Within.refl ps s).toKeeps

theorem Keeps.trans {ps : List Part} {s t u : State} (h : Keeps ps s t) (h' : Keeps ps t u) : Keeps ps s u :=
  ⟨h'.pending.trans h.pending, fun p hp => (h.keeps p hp).trans (h'.keeps p hp)⟩

theorem Keeps.mono {ps qs : List Part} {s t : State} (h : Keeps ps s t) (hs : ps ⊆ qs) : Keeps qs s t :=
  ⟨h.pending, fun p hp => h.keeps p fun hm => hp (hs hm)⟩

theorem keeps_ite {ps : List Part} {c : Prop} [Decidable c] {s t u : State} (h : Keeps ps s t) (h' : Keeps ps s u) :
    Keeps ps s (if c then t else u) := by
  split
  · exact h
  · exact h'

theorem whileRunning_keeps {ps : List Part} {f : State → State} {s : State} (h : Keeps ps s (f s)) :
    Keeps ps s (whileRunning f s) :=
  keeps_ite h (Keeps.refl _ _)

/-! ## The clock -/

/-- The parts that the clock's own events can change. -/
abbrev clockParts : List Part := [.comms, .clock, .orders, .carriage, .billing]

theorem clock_within (c : Clock) (s : State) : Within [.clock] s { s with clock := c } :=
  within_quiet rfl rfl fun p hp => by cases p <;> first | rfl | simp at hp

theorem tick_within (s : State) : Within clockParts s (tick s) := by
  have h : Within clockParts s (countRun s) := (clock_within _ s).mono (by decide)
  unfold tick
  split
  · exact h
  · refine (h.trans ?_).trans ((raiseDue_within _).mono (by decide))
    unfold advance
    refine within_ite ?_ ((clock_within _ _).mono (by decide))
    exact within_quiet rfl rfl fun p hp => by cases p <;> first | rfl | simp at hp

theorem setTime_within (p n : Nat) (s : State) : Within clockParts s (setTime p n s) :=
  ((clock_within _ s).mono (by decide)).trans ((raiseDue_within _).mono (by decide))

theorem rejectTime_within (s : State) : Within clockParts s (rejectTime s) := (raise_within _ s).mono (by decide)

theorem takeTime_within (b : List Byte) (s : State) : Within clockParts s (takeTime b s) := by
  unfold takeTime
  refine within_ite ?_ (((countRefusedSource_within _ s).mono (by decide)).trans (rejectTime_within _))
  unfold wellFormedTime
  refine within_ite (rejectTime_within _) ?_
  split
  · unfold timeWhileUnset
    dsimp only
    refine within_ite (setTime_within _ _ _) (within_ite ?_ (rejectTime_within _))
    exact ((billing_within _ s).mono (by decide)).trans (setTime_within _ _ _)
  · unfold timeWhileSet
    exact within_ite (within_ite (setTime_within _ _ _) ((clock_within _ s).mono (by decide))) (rejectTime_within _)

theorem setFrost_within (w : Option FrostWindow) (s : State) : Within clockParts s (setFrost w s) :=
  ((clock_within _ s).mono (by decide)).trans ((raiseDue_within _).mono (by decide))

theorem takeFrostCall_within (b : List Byte) (s : State) : Within clockParts s (takeFrostCall b s) := by
  unfold takeFrostCall
  exact within_ite ((countRefusedSource_within _ s).mono (by decide))
    (within_ite (setFrost_within _ _) (setFrost_within _ _))

theorem frostEnd_within (s : State) : Within clockParts s (frostEnd s) :=
  within_ite ((clock_within _ s).mono (by decide)) (Within.refl _ _)

/-- The parts that a change of the local draw limit can change. -/
abbrev drawParts : List Part := [.comms, .clock, .gates, .gateWaiting, .orders, .free]

theorem recomputeDraw_within (s : State) : Within drawParts s (recomputeDraw s) := by
  have h : ∀ c, Within drawParts s { s with clock := c } := fun c => (clock_within c s).mono (by decide)
  unfold recomputeDraw
  exact within_ite ((h _).trans ((shed_within _ _).mono (by decide))) (h _)

theorem takeCurtail_within (b : List Byte) (s : State) : Within drawParts s (takeCurtail b s) := by
  unfold takeCurtail
  split
  · split
    · exact Within.refl _ _
    · exact ((clock_within _ s).mono (by decide)).trans (recomputeDraw_within _)
  · exact (countRefusedSource_within _ s).mono (by decide)

/-! ## The line ports -/

theorem comms_keeps (c : Comms) (s : State) : Keeps [.comms] s { s with comms := c } :=
  ⟨rfl, fun p hp => by cases p <;> first | rfl | simp at hp⟩

theorem mapUnit_keeps (p : Port) (f : PortUnit → PortUnit) (s : State) : Keeps [.comms] s (mapUnit p f s) :=
  comms_keeps _ s

theorem countError_keeps (p : Port) (e : ReceiverError) (s : State) : Keeps [.comms] s (countError p e s) := by
  cases e <;> exact ((count_within _ _ s).trans (raise_within _ _)).toKeeps

theorem giveSymbol_keeps (p : Port) (y : Symbol) (s : State) : Keeps [.comms] s (giveSymbol p y s) := by
  unfold giveSymbol
  dsimp only
  split
  · exact mapUnit_keeps _ _ _
  · exact (mapUnit_keeps _ _ _).trans (countError_keeps _ _ _)

theorem offerFrame_keeps (p : Port) (b : List Byte) (m : Bool) (s : State) : Keeps [.comms] s (offerFrame p b m s) := by
  unfold offerFrame
  split
  · exact ((count_within _ _ s).trans (raise_within _ _)).toKeeps
  · exact keeps_ite (mapUnit_keeps _ _ _) ((count_within _ _ s).trans (raise_within _ _)).toKeeps

theorem endGapEvent_keeps (p : Port) (s : State) : Keeps [.comms] s (endGapEvent p s) := by
  unfold endGapEvent
  dsimp only
  split
  · exact keeps_ite ((mapUnit_keeps _ _ _).trans (offerFrame_keeps _ _ _ _))
      ((mapUnit_keeps _ _ _).trans (countError_keeps _ _ _))
  · exact mapUnit_keeps _ _ _

theorem quietReaches_keeps (p : Port) (n : Nat) (s : State) : Keeps [.comms] s (quietReaches p n s) := by
  unfold quietReaches
  exact keeps_ite ((mapUnit_keeps _ _ _).trans (endGapEvent_keeps _ _)) (mapUnit_keeps _ _ _)

theorem retimePort_keeps (p : Port) (s : State) : Keeps [.comms] s (retimePort p s) :=
  keeps_ite (quietReaches_keeps _ _ _) (Keeps.refl _ _)

theorem tryTransmit_keeps (p : Port) (s : State) : Keeps gateParts s (tryTransmit p s) := by
  unfold tryTransmit
  dsimp only
  split
  · exact Keeps.refl _ _
  · refine keeps_ite ?_ (Keeps.refl _ _)
    have h : ∀ t, Keeps gateParts t (afterStart p t) := fun t => by
      cases p
      · exact Keeps.refl _ _
      · exact (placeWaiting_within _).toKeeps
    exact ((mapUnit_keeps _ _ _).mono (by decide)).trans (h _)

theorem transmitStart_keeps (p : Port) (n : Nat) (s : State) : Keeps gateParts s (transmitStart p n s) :=
  keeps_ite (((quietReaches_keeps _ _ _).mono (by decide)).trans (tryTransmit_keeps _ _)) (Keeps.refl _ _)

theorem transmitEnd_keeps (p : Port) (s : State) : Keeps [.comms] s (transmitEnd p s) :=
  keeps_ite (mapUnit_keeps _ _ _) (Keeps.refl _ _)

theorem talkerClash_keeps (p : Port) (s : State) : Keeps [.comms] s (talkerClash p s) :=
  keeps_ite ((mapUnit_keeps p _ s).trans (raise_within _ _).toKeeps) (Keeps.refl _ _)

theorem endGap_keeps (p : Port) (s : State) : Keeps [.comms] s (endGap p s) :=
  keeps_ite (quietReaches_keeps _ _ _) (Keeps.refl _ _)

theorem captureSaturation_keeps (p : Port) (s : State) : Keeps [.comms] s (captureSaturation p s) :=
  keeps_ite ((mapUnit_keeps p _ s).trans (giveSymbol_keeps _ _ _)) (Keeps.refl _ _)

theorem inactiveEdge_keeps (p : Port) (n : Nat) (s : State) : Keeps [.comms] s (inactiveEdge p n s) := by
  unfold inactiveEdge
  refine keeps_ite (Keeps.refl _ _) ?_
  exact keeps_ite ((mapUnit_keeps _ _ _).trans (giveSymbol_keeps _ _ _)) (mapUnit_keeps _ _ _)

theorem activeEdge_keeps (p : Port) (s : State) : Keeps [.comms] s (activeEdge p s) :=
  keeps_ite (Keeps.refl _ _) (mapUnit_keeps _ _ _)

/-! ## The supply -/

/-- The parts that a comparison of the supply can change. -/
abbrev supplyParts : List Part := [.comms, .supply, .store, .free]

theorem supply_within (x : Supply) (s : State) : Within [.supply] s { s with supply := x } :=
  within_quiet rfl rfl fun p hp => by cases p <;> first | rfl | simp at hp

theorem passToLow_within (s : State) : Within supplyParts s (passToLow s) :=
  within_ite ((supply_within _ s).mono (by decide))
    ((((supply_within _ s).mono (by decide)).trans ((raise_within _ _).mono (by decide))).trans
      ((requestSnapshot_within _).mono (by decide)))

theorem fallCheck_within (s : State) : Within supplyParts s (fallCheck s) :=
  within_ite (passToLow_within s) (Within.refl _ _)

theorem riseCheck_within (s : State) : Within supplyParts s (riseCheck s) :=
  within_ite ((supply_within _ s).mono (by decide)) (Within.refl _ _)

theorem compareSupply_within (s : State) : Within supplyParts s (compareSupply s) :=
  (fallCheck_within s).trans (riseCheck_within _)

theorem setLevel_within (n : Nat) (s : State) : Within supplyParts s (setLevel n s) :=
  (supply_within _ s).mono (by decide)

theorem retentionCheck_within (s : State) : Within [.supply] s (retentionCheck s) :=
  within_ite (supply_within _ s) (Within.refl _ _)

theorem stopPart_keeps (s : State) : Keeps [.comms, .store, .supply, .loading] s (stopPart s) :=
  ⟨rfl, fun p hp => by cases p <;> first | rfl | simp at hp⟩

/-- The parts that a move of the supply can change, but for a restart. -/
abbrev moveParts : List Part := [.comms, .store, .supply, .loading, .free]

/-- The supply stands at a level, and every passage but a restart has been made. -/
abbrev supplySettles (n : Nat) (s : State) : State := retentionCheck (backupCheck (compareSupply (setLevel n s)))

theorem supplySettles_keeps (n : Nat) (s : State) : Keeps moveParts s (supplySettles n s) := by
  have h1 : Keeps moveParts s (compareSupply (setLevel n s)) :=
    ((setLevel_within n s).trans (compareSupply_within _)).toKeeps.mono (by decide)
  have h2 : Keeps moveParts (compareSupply (setLevel n s)) (backupCheck (compareSupply (setLevel n s))) :=
    keeps_ite ((stopPart_keeps _).mono (by decide)) (Keeps.refl _ _)
  exact (h1.trans h2).trans ((retentionCheck_within _).toKeeps.mono (by decide))

/-- A move of the supply restarts a part that stands stopped above 10.2 V, and otherwise changes the ports, the store,
the supply and the loading alone. -/
theorem supplyMoves_cases (n : Nat) (s : State) :
    Keeps moveParts s (supplyMoves n s)
      ∨ supplyMoves n s = restartReading (restartKind (supplySettles n s).supply.retention) (supplySettles n s) := by
  show Keeps moveParts s (restartCheck (supplySettles n s)) ∨ restartCheck (supplySettles n s) = _
  unfold restartCheck
  split
  · exact Or.inr rfl
  · exact Or.inl (supplySettles_keeps n s)

/-- The end of loading can change every part but the clock, the tables, the orders, the carriage list, the meters and
the bills. -/
theorem endLoading_keeps (l : Loading) (s : State) :
    Keeps [.comms, .supply, .store, .free, .mgmt, .loading, .gates, .gateWaiting, .scan] s (endLoading l s) := by
  have h1 : Keeps [.comms, .supply, .store, .free, .mgmt, .loading, .gates, .gateWaiting, .scan] s
      { s with
        mgmt := { restart := l.record }
        comms := { s.comms with flags := 0 }
        supply := { s.supply with status := .normal }
        loading := none } :=
    ⟨rfl, fun p hp => by cases p <;> first | rfl | simp at hp⟩
  have h2 : Keeps [.comms, .supply, .store, .free, .mgmt, .loading, .gates, .gateWaiting, .scan] s
      (endLoadingMgmt l s) := by
    unfold endLoadingMgmt
    refine Keeps.trans ?_ ((raise_within _ _).toKeeps.mono (by decide))
    refine Keeps.trans (h1.trans ((fallCheck_within _).toKeeps.mono (by decide))) ?_
    exact keeps_ite ((raise_within _ _).toKeeps.mono (by decide)) (Keeps.refl _ _)
  have h3 : Keeps [.comms, .scan] (startGates (endLoadingMgmt l s)) (startScan (startGates (endLoadingMgmt l s))) :=
    ((scan_within _ _).mono (by decide)).toKeeps.trans (beginScan_within _).toKeeps
  exact ((h2.trans ((startGates_within _).toKeeps.mono (by decide))).trans (h3.mono (by decide))).trans
    ((supply_within _ _).toKeeps.mono (by decide))

/-! ## Requests -/

theorem mgmt_within (x : Mgmt) (s : State) : Within [.mgmt] s { s with mgmt := x } :=
  within_quiet rfl rfl fun p hp => by cases p <;> first | rfl | simp at hp

theorem answer_within (q : Byte) (k r : Nat) (b : List Byte) (s : State) :
    Within [.comms, .mgmt] s (answer q k r b s) :=
  ((mgmt_within _ s).mono (by decide)).trans ((place_within _ _ _).mono (by decide))

theorem reply_within (q : Byte) (k r : Nat) (b : List Byte) (s : State) : Within [.comms, .mgmt] s (reply q k r b s) :=
  answer_within _ _ _ _ _

theorem refuse_within (q : Byte) (k r : Nat) (s : State) : Within [.comms, .mgmt] s (refuse q k r s) :=
  answer_within _ _ _ _ _

theorem done_within (q : Byte) (k : Nat) (s : State) : Within [.comms, .mgmt] s (done q k s) :=
  answer_within _ _ _ _ _

theorem busy_within (q : Byte) (k : Nat) (b : List Byte) (s : State) : Within [.comms] s (busy q k b s) :=
  sendOffice_within _ _ _ _

theorem resend_within (r : LastReply) (s : State) : Within [.comms] s (resend r s) := sendOffice_within _ _ _ _

/-- The parts that a request can change. -/
abbrev requestParts : List Part :=
  [.comms, .clock, .tables, .orders, .gates, .gateWaiting, .scan, .metering, .billing, .mgmt, .store, .supply, .free]

theorem tables_within (x : Tables) (s : State) : Within [.tables] s { s with tables := x } :=
  within_quiet rfl rfl fun p hp => by cases p <;> first | rfl | simp at hp

theorem acceptReach_within (r : ReachTable) (s : State) : Within requestParts s (acceptReach r s) := by
  unfold acceptReach takeWarnChoice
  have h : Within requestParts s (recomputeDraw { s with tables := { s.tables with reach := r } }) :=
    ((tables_within _ s).mono (by decide)).trans ((recomputeDraw_within _).mono (by decide))
  exact within_ite h (h.trans ((compareSupply_within _).mono (by decide)))

theorem acceptTurnout_within (t : Turnout) (e : TurnoutEntry) (s : State) :
    Within requestParts s (acceptTurnout t e s) := by
  have h : ∀ x, Within requestParts s { s with tables := x } := fun x => (tables_within x s).mono (by decide)
  unfold acceptTurnout
  refine Within.trans ?_ ((checkCommand_within _ _).mono (by decide))
  exact within_ite ((h _).trans ((endTags_within _ _ _).mono (by decide))) (h _)

theorem acceptAccount_within (i : Fin 64) (a : AccountEntry) (s : State) :
    Within requestParts s (acceptAccount i a s) := by
  have h : ∀ x y z, Within requestParts s { s with tables := x, metering := y, free := z } := fun x y z =>
    within_quiet rfl rfl fun p hp => by cases p <;> first | rfl | simp at hp
  have h2 : ∀ l t, Within requestParts t (endTags .disabled l t) := fun l t =>
    (endTags_within _ _ _).mono (by decide)
  have h3 : ∀ t, Within requestParts t (allotmentAtWrite i t) := fun t =>
    within_ite (((raise_within _ _).mono (by decide)).trans ((endTags_within _ _ _).mono (by decide)))
      (Within.refl _ _)
  have h4 : ∀ old new t, Within requestParts t (keepAccount i old new t) := fun old new t =>
    within_ite ((h2 _ _).trans (h3 _)) (h2 _ _)
  exact within_ite ((h _ _ _).trans (h4 _ _ _)) (h _ _ _)

theorem acceptTiming_keeps (x : LineTiming) (s : State) : Keeps requestParts s (acceptTiming x s) :=
  (((tables_within _ s).toKeeps.mono (by decide)).trans ((retimePort_keeps .u _).mono (by decide))).trans
    ((retimePort_keeps .d _).mono (by decide))

/-- Every table write but one of LINE TIMING changes the ports by talk alone. -/
theorem writeEntry_within {code entry : Nat} {b : List Byte} {s t : State} (hc : code ≠ 6)
    (h : writeEntry code entry b s = .ok t) : Within requestParts s t := by
  unfold writeEntry at h
  split at h
  · unfold writeReach at h
    split at h
    · simp at h
    · split at h
      · simp at h
      · simp only [Except.ok.injEq] at h; exact h ▸ acceptReach_within _ _
  · unfold writeTurnout at h
    split at h
    · simp only [Except.ok.injEq] at h; exact h ▸ acceptTurnout_within _ _ _
    · simp at h
  · unfold writeRating at h
    split at h
    · simp at h
    · dsimp only at h
      split at h
      · simp only [Except.ok.injEq] at h; exact h ▸ (tables_within _ s).mono (by decide)
      · simp at h
  · unfold writeAccount at h
    split at h
    · simp at h
    · split at h
      · simp at h
      · simp only [Except.ok.injEq] at h; exact h ▸ acceptAccount_within _ _ _
  · unfold writeTariff at h
    split at h
    · simp at h
    · split at h
      · simp only [Except.ok.injEq] at h; exact h ▸ (billing_within _ s).mono (by decide)
      · simp at h
  · exact absurd rfl hc
  · unfold writeScan at h
    split at h
    · simp at h
    · simp only [Except.ok.injEq] at h; exact h ▸ (tables_within _ s).mono (by decide)
  · simp only [Except.ok.injEq] at h; exact h ▸ (tables_within _ s).mono (by decide)

theorem writeEntry_keeps {code entry : Nat} {b : List Byte} {s t : State} (h : writeEntry code entry b s = .ok t) :
    Keeps requestParts s t := by
  by_cases hc : code = 6
  · subst hc
    simp only [writeEntry, writeTiming] at h
    split at h
    · simp at h
    · split at h
      · simp only [Except.ok.injEq] at h; exact h ▸ acceptTiming_keeps _ _
      · simp at h
  · exact (writeEntry_within hc h).toKeeps

theorem actTableWrite_keeps (b : List Byte) (s : State) : Keeps requestParts s (actTableWrite b s) := by
  unfold actTableWrite
  split
  · exact (refuse_within _ _ _ _).toKeeps.mono (by decide)
  · next t h =>
    refine Keeps.trans ?_ ((done_within _ _ _).toKeeps.mono (by decide))
    unfold tryWrite at h
    dsimp only at h
    split at h
    · simp at h
    · split at h
      · simp at h
      · split at h
        · simp at h
        · exact writeEntry_keeps h

theorem actTableRead_within (b : List Byte) (s : State) : Within [.comms, .mgmt] s (actTableRead b s) := by
  unfold actTableRead
  split
  · exact refuse_within _ _ _ _
  · exact answer_within _ _ _ _ _

theorem actStatusRead_within (b : List Byte) (s : State) : Within [.comms, .mgmt] s (actStatusRead b s) := by
  unfold actStatusRead
  split
  · exact refuse_within _ _ _ _
  · split
    · exact refuse_within _ _ _ _
    · exact answer_within _ _ _ _ _

theorem free_within (n : Nat) (s : State) : Within [.free] s { s with free := n } :=
  within_quiet rfl rfl fun p hp => by cases p <;> first | rfl | simp at hp

theorem actOrderRead_within (b : List Byte) (s : State) : Within [.comms, .mgmt, .free] s (actOrderRead b s) := by
  unfold actOrderRead
  split
  · exact (refuse_within _ _ _ _).mono (by decide)
  · split
    · exact (refuse_within _ _ _ _).mono (by decide)
    · exact ((free_within _ s).mono (by decide)).trans ((answer_within _ _ _ _ _).mono (by decide))

theorem actEventClear_within (b : List Byte) (s : State) : Within [.comms, .mgmt] s (actEventClear b s) := by
  have h : ∀ x, Within [.comms, .mgmt] s (clearFlags x s) := fun x => (clearFlags_within x s).mono (by decide)
  unfold actEventClear
  refine within_ite (refuse_within _ _ _ _) (Within.trans ?_ (done_within _ _ _))
  exact within_ite ((h _).trans ((zeroCounts_within _).mono (by decide))) (h _)

theorem actCommand_within (b : List Byte) (s : State) : Within requestParts s (actCommand b s) := by
  have hm : ∀ m, Within requestParts s (setMgmt m s) := fun m =>
    within_quiet rfl rfl fun p hp => by cases p <;> first | rfl | simp at hp
  have hr : ∀ q k r x (t : State), Within requestParts t (reply q k r x t) := fun _ _ _ _ _ =>
    (reply_within _ _ _ _ _).mono (by decide)
  unfold actCommand
  dsimp only
  refine within_ite (hr _ _ _ _ _) ?_
  split
  · exact ((hm _).trans (hr _ _ _ _ _)).trans ((requestSnapshot_within _).mono (by decide))
  · exact ((billing_within _ s).mono (by decide)).trans (hr _ _ _ _ _)
  · exact within_ite (((hm _).trans (hr _ _ _ _ _)).trans ((requestWipe_within _).mono (by decide))) (hr _ _ _ _ _)
  · exact hr _ _ _ _ _

theorem actStoreCommit_within (b : List Byte) (s : State) : Within requestParts s (actStoreCommit b s) := by
  unfold actStoreCommit
  dsimp only
  split
  · exact (refuse_within _ _ _ _).mono (by decide)
  · refine within_ite ((refuse_within _ _ _ _).mono (by decide))
      (within_ite ((busy_within _ _ _ _).mono (by decide)) ?_)
    exact ((reply_within _ _ _ _ _).mono (by decide)).trans ((beginWrite_within _ _ _ _ _).mono (by decide))

theorem actBillRead_within (b : List Byte) (s : State) : Within requestParts s (actBillRead b s) := by
  unfold actBillRead
  dsimp only
  refine within_ite ((refuse_within _ _ _ _).mono (by decide)) ?_
  split
  · exact (reply_within _ _ _ _ _).mono (by decide)
  · unfold readBill
    refine within_ite (within_ite ?_ ((refuse_within _ _ _ _).mono (by decide))) ?_
    · exact (((billing_within _ s).mono (by decide)).trans ((answer_within _ _ _ _ _).mono (by decide))).trans
        ((testAfterCollect_within _).mono (by decide))
    · split
      · exact (refuse_within _ _ _ _).mono (by decide)
      · exact (answer_within _ _ _ _ _).mono (by decide)

theorem takeRequest_keeps (k : Nat) (b : List Byte) (s : State) : Keeps requestParts s (takeRequest k b s) := by
  unfold takeRequest
  split
  · exact (resend_within _ _).toKeeps.mono (by decide)
  · refine keeps_ite ?_ ?_
    · exact ((free_within _ s).toKeeps.mono (by decide)).trans ((busy_within _ _ _ _).toKeeps.mono (by decide))
    · unfold act
      refine keeps_ite (actTableWrite_keeps _ _) ?_
      refine keeps_ite ((actTableRead_within _ _).toKeeps.mono (by decide)) ?_
      refine keeps_ite (actStoreCommit_within _ _).toKeeps ?_
      refine keeps_ite ((actStatusRead_within _ _).toKeeps.mono (by decide)) ?_
      refine keeps_ite ((actEventClear_within _ _).toKeeps.mono (by decide)) ?_
      refine keeps_ite (actBillRead_within _ _).toKeeps ?_
      refine keeps_ite ((actOrderRead_within _ _).toKeeps.mono (by decide)) ?_
      exact keeps_ite (actCommand_within _ _).toKeeps (Keeps.refl _ _)

/-! ## Frames -/

/-- The parts that the router's work on a frame can change. -/
abbrev workParts : List Part := .carriage :: requestParts

theorem deliverDown_within (f : Frame) (s : State) : Within workParts s (deliverDown f s) := by
  unfold deliverDown
  refine within_ite ((countRefusedSource_within _ _).mono (by decide)) (within_ite ?_ ?_)
  · split
    · exact (takeHeadReading_within _ _ _).mono (by decide)
    · exact (countRefusedSource_within _ _).mono (by decide)
  · split
    · unfold deliverTurnout
      refine within_ite ((takeOrder_within _ _ _).mono (by decide)) ?_
      refine within_ite ((takeCancel_within _ _ _).mono (by decide)) ?_
      exact within_ite ((takeReport_within _ _ _).mono (by decide)) ((countRefusedSource_within _ _).mono (by decide))
    · exact (countRefusedSource_within _ _).mono (by decide)

theorem deliverUp_keeps (f : Frame) (s : State) : Keeps workParts s (deliverUp f s) := by
  have hr : Keeps workParts s (countRefusedSource .u s) := (countRefusedSource_within _ _).toKeeps.mono (by decide)
  unfold deliverUp
  dsimp only
  refine keeps_ite ?_ (keeps_ite ?_ hr)
  · unfold deliverAnswer
    refine keeps_ite hr (keeps_ite ?_ ?_)
    · exact (takeConfirm_within _ _).toKeeps.mono (by decide)
    · exact (takeRefuse_within _ _).toKeeps.mono (by decide)
  · unfold deliverOffice
    refine keeps_ite ((takeTime_within _ _).toKeeps.mono (by decide)) ?_
    refine keeps_ite ((takeFrostCall_within _ _).toKeeps.mono (by decide)) ?_
    refine keeps_ite ((takeCurtail_within _ _).toKeeps.mono (by decide)) ?_
    exact keeps_ite ((takeRequest_keeps _ _ _).mono (by decide)) hr

theorem forward_within (p : Port) (f : Frame) (s : State) : Within [.comms] s (forward p f s) := place_within _ _ _

theorem work_keeps (p : Port) (f : Frame) (s : State) : Keeps workParts s (work p f s) := by
  have hm : ∀ q, Keeps workParts s (countMisrouted q s) := fun q =>
    (countMisrouted_within _ _).toKeeps.mono (by decide)
  have hf : ∀ q g (t : State), Keeps workParts t (forward q g t) := fun _ _ _ =>
    (forward_within _ _ _).toKeeps.mono (by decide)
  unfold work
  refine keeps_ite ?_ ?_
  · unfold routeUnassigned
    split
    · exact keeps_ite ((takeRequest_keeps _ _ _).mono (by decide)) (hf _ _ _)
    · exact hf _ _ _
  · split
    · unfold routeUp
      dsimp only
      refine keeps_ite ((deliverUp_keeps _ _).trans (hf _ _ _)) (keeps_ite (hm _) ?_)
      refine keeps_ite (keeps_ite (Keeps.refl _ _) (hm _)) (keeps_ite ?_ ?_)
      · exact keeps_ite (deliverUp_keeps _ _) (hf _ _ _)
      · unfold descend
        refine keeps_ite (((passConfirm_within _ _).toKeeps.mono (by decide)).trans (hf _ _ _)) ?_
        exact keeps_ite (((passRefuse_within _ _).toKeeps.mono (by decide)).trans (hf _ _ _)) (hf _ _ _)
    · unfold routeDown
      dsimp only
      refine keeps_ite (hm _) (keeps_ite ?_ ?_)
      · exact keeps_ite (deliverDown_within _ _).toKeeps (hm _)
      · unfold climb
        refine keeps_ite ?_ (keeps_ite ?_ (hf _ _ _))
        · unfold climbDemand
          split
          · exact ((passDemand_within _ _).toKeeps.mono (by decide)).trans (hf _ _ _)
          · exact (passDemand_within _ _).toKeeps.mono (by decide)
        · exact ((passRelease_within _ _).toKeeps.mono (by decide)).trans (hf _ _ _)

theorem routeNext_keeps (s : State) : Keeps (.lastTaken :: workParts) s (routeNext s) := by
  unfold routeNext
  split
  · exact Keeps.refl _ _
  · unfold routeFrom
    split
    · exact Keeps.refl _ _
    · refine Keeps.trans ?_ ((mapUnit_keeps _ _ _).mono (by decide))
      refine Keeps.trans (t := { s with lastTaken := some _ }) ⟨rfl, fun p hp => ?_⟩ ((work_keeps _ _ _).mono (by decide))
      cases p <;> first | rfl | simp at hp

theorem arrive_keeps (p : Port) (dst src : Addr) (k : Nat) (b : List Byte) (m : Bool) (s : State) :
    Keeps workParts s (arrive p dst src k b m s) :=
  whileRunning_keeps (work_keeps _ _ _)

theorem fromStation_keeps (x k : Nat) (b : List Byte) (m : Bool) (s : State) :
    Keeps workParts s (fromStation x k b m s) :=
  arrive_keeps _ _ _ _ _ _ _

theorem fromOffice_keeps (a : Bool) (k : Nat) (b : List Byte) (m : Bool) (s : State) :
    Keeps workParts s (fromOffice a k b m s) :=
  arrive_keeps _ _ _ _ _ _ _

end Sys2Proof.Machine
end

