-- ==== Sys2Proof/Laws/Delivery.lean ====
section
/-! SUPPORT. Laws/Delivery.lean: to whom an assigned, running part hands the frame of each command, and which request
of the office is acted on; where the frames that such a
part sends go; and what the tests of RATING and LINE TIMING say. -/

namespace Sys2Proof.Machine

open Sys2Proof.Safety

theorem turnoutOf_succ (t : Turnout) : turnoutOf (t.val + 1) = some t := by
  simp [turnoutOf]

theorem stationOf_succ (x : Station) : stationOf (x.val + 1) = some x := by
  simp [stationOf]

theorem assigned_ne_zero {s : State} (h : Assigned s) : ownReach s ≠ 0 := by
  have := h.1
  omega

/-! ## Frames of the stations -/

theorem work_turnout {s : State} (h : Assigned s) (t : Turnout) {k : Nat} (hk : k ≠ Kind.headReading) (b : List Byte)
    (m : Bool) :
    work .d (mkFrame (stationAddr s 0) (stationAddr s (stationNumber t)) k b m) s =
      deliverTurnout t (mkFrame (stationAddr s 0) (stationAddr s (stationNumber t)) k b m) s := by
  have h0 := assigned_ne_zero h
  simp [work, h0, routeDown, mkFrame, stationAddr, deliverDown, hk, stationNumber, turnoutOf_succ]

theorem exec_order {s : State} (hr : Runs s) (h : Assigned s) (t : Turnout) (m : Bool) (b : List Byte) :
    exec (.order t m b) s = .next (takeOrder t b s) := by
  show Host.Outcome.next (whileRunning _ s) = _
  rw [whileRunning_runs hr, work_turnout h _ (by decide)]
  simp [deliverTurnout, mkFrame]

theorem exec_orderCancel {s : State} (hr : Runs s) (h : Assigned s) (t : Turnout) (m : Bool) (b : List Byte) :
    exec (.orderCancel t m b) s = .next (takeCancel t b s) := by
  show Host.Outcome.next (whileRunning _ s) = _
  rw [whileRunning_runs hr, work_turnout h _ (by decide)]
  simp [deliverTurnout, mkFrame]

theorem exec_gateReport {s : State} (hr : Runs s) (h : Assigned s) (t : Turnout) (m : Bool) (b : List Byte) :
    exec (.gateReport t m b) s = .next (takeReport t b s) := by
  show Host.Outcome.next (whileRunning _ s) = _
  rw [whileRunning_runs hr, work_turnout h _ (by decide)]
  simp [deliverTurnout, mkFrame]

theorem exec_headReading {s : State} (hr : Runs s) (h : Assigned s) (x : Station) (m : Bool) (b : List Byte) :
    exec (.headReading x m b) s = .next (takeHeadReading x b s) := by
  have h0 := assigned_ne_zero h
  show Host.Outcome.next (whileRunning _ s) = _
  rw [whileRunning_runs hr]
  simp [work, h0, routeDown, mkFrame, stationAddr, deliverDown, stationOf_succ]

/-! ## Frames from upstream for the part -/

theorem exec_time {s : State} (hr : Runs s) (h : Assigned s) (m : Bool) (b : List Byte) :
    exec (.time false m b) s = .next (takeTime b s) := by
  have h0 := assigned_ne_zero h
  have h1 := h.2
  show Host.Outcome.next (whileRunning _ s) = _
  rw [whileRunning_runs hr]
  have e : ¬ ownReach s = 255 := by omega
  have e' : ¬ 251 ≤ ownReach s := by omega
  simp [work, h0, routeUp, mkFrame, stationAddr, deliverUp, deliverOffice, office, e, e']

theorem exec_frostCall {s : State} (hr : Runs s) (h : Assigned s) (m : Bool) (b : List Byte) :
    exec (.frostCall false m b) s = .next (takeFrostCall b s) := by
  have h0 := assigned_ne_zero h
  have h1 := h.2
  show Host.Outcome.next (whileRunning _ s) = _
  rw [whileRunning_runs hr]
  have e : ¬ ownReach s = 255 := by omega
  have e' : ¬ 251 ≤ ownReach s := by omega
  simp [work, h0, routeUp, mkFrame, stationAddr, deliverUp, deliverOffice, office, e, e']

theorem exec_curtail {s : State} (hr : Runs s) (h : Assigned s) (m : Bool) (b : List Byte) :
    exec (.curtail false m b) s = .next (takeCurtail b s) := by
  have h0 := assigned_ne_zero h
  have h1 := h.2
  show Host.Outcome.next (whileRunning _ s) = _
  rw [whileRunning_runs hr]
  have e : ¬ ownReach s = 255 := by omega
  have e' : ¬ 251 ≤ ownReach s := by omega
  simp [work, h0, routeUp, mkFrame, stationAddr, deliverUp, deliverOffice, office, e, e']

theorem exec_time_broadcast {s : State} (hr : Runs s) (h : Assigned s) (m : Bool) (b : List Byte) :
    exec (.time true m b) s = .next (place .d (mkFrame ⟨255, 0⟩ ⟨0, 0⟩ 0x61 b m) (takeTime b s)) := by
  have h0 := assigned_ne_zero h
  have h1 := h.2
  show Host.Outcome.next (whileRunning _ s) = _
  rw [whileRunning_runs hr]
  have e : ¬ 255 = ownReach s := by omega
  simp [work, h0, routeUp, mkFrame, deliverUp, deliverOffice, office, e, forward, forwarded, isMarkedCall]

theorem exec_frostCall_broadcast {s : State} (hr : Runs s) (h : Assigned s) (m : Bool) (b : List Byte) :
    exec (.frostCall true m b) s =
      .next (place .d { mkFrame ⟨255, 0⟩ ⟨0, 0⟩ 0x62 b m with marked := true } (takeFrostCall b s)) := by
  have h0 := assigned_ne_zero h
  have h1 := h.2
  show Host.Outcome.next (whileRunning _ s) = _
  rw [whileRunning_runs hr]
  have e : ¬ 255 = ownReach s := by omega
  simp [work, h0, routeUp, mkFrame, deliverUp, deliverOffice, office, e, forward, forwarded, isMarkedCall]

theorem exec_curtail_broadcast {s : State} (hr : Runs s) (h : Assigned s) (m : Bool) (b : List Byte) :
    exec (.curtail true m b) s =
      .next (place .d { mkFrame ⟨255, 0⟩ ⟨0, 0⟩ 0x63 b m with marked := true } (takeCurtail b s)) := by
  have h0 := assigned_ne_zero h
  have h1 := h.2
  show Host.Outcome.next (whileRunning _ s) = _
  rw [whileRunning_runs hr]
  have e : ¬ 255 = ownReach s := by omega
  simp [work, h0, routeUp, mkFrame, deliverUp, deliverOffice, office, e, forward, forwarded, isMarkedCall]

theorem exec_confirmAtOrigin {s : State} (hr : Runs s) (h : Assigned s) {src : Addr} (hs : src.reach < ownReach s)
    (m : Bool) (b : List Byte) : exec (.confirmAtOrigin src m b) s = .next (takeConfirm b s) := by
  have h0 := assigned_ne_zero h
  have h1 := h.2
  show Host.Outcome.next (whileRunning _ s) = _
  rw [whileRunning_runs hr]
  have e : ¬ ownReach s = 255 := by omega
  have e' : ¬ 251 ≤ ownReach s := by omega
  simp [work, h0, routeUp, mkFrame, stationAddr, deliverUp, deliverAnswer, e, e', hs]

theorem exec_refuseAtOrigin {s : State} (hr : Runs s) (h : Assigned s) {src : Addr} (hs : src.reach < ownReach s)
    (m : Bool) (b : List Byte) : exec (.refuseAtOrigin src m b) s = .next (takeRefuse b s) := by
  have h0 := assigned_ne_zero h
  have h1 := h.2
  show Host.Outcome.next (whileRunning _ s) = _
  rw [whileRunning_runs hr]
  have e : ¬ ownReach s = 255 := by omega
  have e' : ¬ 251 ≤ ownReach s := by omega
  simp [work, h0, routeUp, mkFrame, stationAddr, deliverUp, deliverAnswer, e, e', hs]

/-! ## Carriage frames that pass -/

theorem exec_demand {s : State} (hr : Runs s) (h : Assigned s) {src dst : Addr} (hd : dst.reach < ownReach s)
    (ht : dst.station < 19) (m : Bool) (b : List Byte) :
    exec (.demand src dst m b) s = .next (climbDemand (mkFrame dst src 0x51 b m) s) := by
  have h0 := assigned_ne_zero h
  show Host.Outcome.next (whileRunning _ s) = _
  rw [whileRunning_runs hr]
  have e : ¬ ownReach s < dst.reach := by omega
  have e' : ¬ 19 ≤ dst.station := by omega
  have e'' : ¬ dst.reach = ownReach s := by omega
  simp [work, h0, routeDown, mkFrame, climb, e, e', e'']

theorem exec_release {s : State} (hr : Runs s) (h : Assigned s) {src dst : Addr} (hd : dst.reach < ownReach s)
    (ht : dst.station < 19) (m : Bool) (b : List Byte) :
    exec (.release src dst m b) s = .next (climbRelease (mkFrame dst src 0x54 b m) s) := by
  have h0 := assigned_ne_zero h
  show Host.Outcome.next (whileRunning _ s) = _
  rw [whileRunning_runs hr]
  have e : ¬ ownReach s < dst.reach := by omega
  have e' : ¬ 19 ≤ dst.station := by omega
  have e'' : ¬ dst.reach = ownReach s := by omega
  simp [work, h0, routeDown, mkFrame, climb, e, e', e'']

theorem exec_confirmPassing {s : State} (hr : Runs s) (h : Assigned s) {src dst : Addr} (hd : ownReach s < dst.reach)
    (hd' : dst.reach ≤ 249) (ht : dst.station < 19) (m : Bool) (b : List Byte) :
    exec (.confirmPassing src dst m b) s =
      .next (place .d (mkFrame dst src 0x52 b m) (passConfirm (mkFrame dst src 0x52 b m) s)) := by
  have h0 := assigned_ne_zero h
  show Host.Outcome.next (whileRunning _ s) = _
  rw [whileRunning_runs hr]
  have e1 : ¬ dst.reach = 255 := by omega
  have e2 : ¬ 251 ≤ dst.reach := by omega
  have e3 : ¬ 19 ≤ dst.station := by omega
  have e4 : ¬ dst.reach < ownReach s := by omega
  have e5 : ¬ dst.reach = ownReach s := by omega
  simp [work, h0, routeUp, mkFrame, descend, forward, forwarded, isMarkedCall, e1, e2, e3, e4, e5, hd']

theorem exec_refusePassing {s : State} (hr : Runs s) (h : Assigned s) {src dst : Addr} (hd : ownReach s < dst.reach)
    (hd' : dst.reach ≤ 249) (ht : dst.station < 19) (m : Bool) (b : List Byte) :
    exec (.refusePassing src dst m b) s =
      .next (place .d (mkFrame dst src 0x53 b m) (passRefuse (mkFrame dst src 0x53 b m) s)) := by
  have h0 := assigned_ne_zero h
  show Host.Outcome.next (whileRunning _ s) = _
  rw [whileRunning_runs hr]
  have e1 : ¬ dst.reach = 255 := by omega
  have e2 : ¬ 251 ≤ dst.reach := by omega
  have e3 : ¬ 19 ≤ dst.station := by omega
  have e4 : ¬ dst.reach < ownReach s := by omega
  have e5 : ¬ dst.reach = ownReach s := by omega
  simp [work, h0, routeUp, mkFrame, descend, forward, forwarded, isMarkedCall, e1, e2, e3, e4, e5, hd']

/-! ## Requests of the office -/

theorem takeRequest_acted {k : Nat} {q : Byte} {b : List Byte} {s : State} (h : ActedOn k q s)
    (hb : requestNumber b = q) : takeRequest k b s = act k b s := by
  obtain ⟨_, hm, hl⟩ := h
  have hn : repeatOf k b s = none := by
    unfold repeatOf
    cases hh : s.mgmt.lastReply with
    | none => rfl
    | some r =>
      have h2 := hl r hh
      rw [← hb] at h2
      simp only [Option.filter_some, Bool.and_eq_true, beq_iff_eq]
      exact if_neg h2
  simp [takeRequest, hn, hm]

theorem requestOf_acted {k : Nat} {q : Byte} {b : List Byte} {s : State} (h : ActedOn k q s)
    (hb : requestNumber b = q) : requestOf k b s = act k b s := by
  show whileRunning _ s = _
  rw [whileRunning_runs h.1]
  exact takeRequest_acted h hb

theorem tableWrite_acted {q e : Byte} {b : List Byte} {s : State} {code : Nat} (h : ActedOn 0x71 q s) :
    tableWrite code q e b s = actTableWrite (writeBody q code e b) s := by
  show whileRunning _ s = _
  rw [whileRunning_runs h.1]
  exact takeRequest_acted h rfl

/-! ## Frames of an assigned part (R20, R118, R131) -/

theorem sendStation_down {s : State} (h : ownReach s ≠ 0) (x k : Nat) (b : List Byte) (m : Bool) :
    sendStation x k b m s = place .d (mkFrame ⟨ownReach s, x⟩ ⟨ownReach s, 0⟩ k b m) s := by
  simp [sendStation, send, ownAddr, h, stationAddr, queueFor, originate]

theorem sendOffice_up {s : State} (h : ownReach s ≠ 0) (k : Nat) (b : List Byte) (m : Bool) :
    sendOffice k b m s = place .u (mkFrame ⟨0, 0⟩ ⟨ownReach s, 0⟩ k b m) s := by
  simp [sendOffice, send, ownAddr, h, office, queueFor, originate]

/-- A GATE SET of an assigned part: the frame, the gate record, and the waiting one withdrawn. -/
theorem gateSet_assigned {s : State} (h : ownReach s ≠ 0) (t : Turnout) (n : Nat) (m timed : Bool) :
    gateSet t n m timed s =
      { place .d (mkFrame ⟨ownReach s, t.val + 1⟩ ⟨ownReach s, 0⟩ 0x31 (be 2 n) m) s with
        gates := putAt s.gates t (commandedGate n timed t s)
        gateWaiting := s.gateWaiting.filter fun x => x != t } := by
  unfold gateSet
  rw [if_neg h, sendStation_down h]
  rfl

theorem gateSet_unassigned {s : State} (h : ownReach s = 0) (t : Turnout) (n : Nat) (m timed : Bool) :
    gateSet t n m timed s = s := if_pos h

/-- The waiting GATE SETs of an assigned part join the D queue in their order until it is full. -/
theorem placeWhileRoom_assigned {l : List Turnout} (hl : l.Nodup) {k : Nat} (hk : l.length ≤ k) {s : State}
    (h : ownReach s ≠ 0) (hw : s.gateWaiting = l) {gates : Vector GateRec 16}
    (hg : ∀ t, getAt gates t =
      if t ∈ l.take (8 - s.comms.d.queue.length) then commandedGate 0 true t s else getAt s.gates t) :
    placeWhileRoom k s = { s with
      comms := { s.comms with d := { s.comms.d with
        queue := s.comms.d.queue ++ (l.take (8 - s.comms.d.queue.length)).map fun t =>
          mkFrame ⟨ownReach s, t.val + 1⟩ ⟨ownReach s, 0⟩ 0x31 (be 2 0) false } }
      gates := gates
      gateWaiting := l.drop (8 - s.comms.d.queue.length) } := by
  have same : (∀ t, getAt gates t = getAt s.gates t) → gates = s.gates := table_ext
  induction k generalizing s l with
  | zero =>
    obtain rfl : l = [] := List.length_eq_zero_iff.1 (by omega)
    obtain rfl := same (by simpa using hg)
    simp only [placeWhileRoom, List.take_nil, List.map_nil, List.append_nil, List.drop_nil]
    rw [← hw]
  | succ k ih =>
    unfold placeWhileRoom
    by_cases hq : s.comms.d.queue.length < 8
    · rw [if_pos (show _ < queuePlaces from hq)]
      cases l with
      | nil =>
        have : placeWaiting s = s := by unfold placeWaiting; rw [hw]
        rw [this]
        exact ih List.nodup_nil (by simp) h hw hg same
      | cons t rest =>
        obtain ⟨hnt, hnd⟩ := List.nodup_cons.1 hl
        have hfil : rest.filter (fun x => x != t) = rest := by
          rw [List.filter_eq_self]
          intro a ha
          simp only [bne_iff_ne, ne_eq]
          rintro rfl
          exact hnt ha
        have hone : placeWaiting s = { s with
            comms := { s.comms with d := { s.comms.d with queue := s.comms.d.queue
              ++ [mkFrame ⟨ownReach s, t.val + 1⟩ ⟨ownReach s, 0⟩ 0x31 (be 2 0) false] } }
            gates := putAt s.gates t (commandedGate 0 true t s)
            gateWaiting := rest } := by
          unfold placeWaiting
          rw [hw]
          dsimp only
          rw [gateSet_assigned (by exact h), place_room (p := .d) (by exact hq)]
          dsimp only
          rw [hfil]
          rfl
        have h8 : 8 - s.comms.d.queue.length = (8 - (s.comms.d.queue.length + 1)) + 1 := by omega
        rw [hone]
        refine (ih hnd (by simpa using hk) (by exact h) rfl ?_ table_ext).trans ?_
        · intro u
          rw [hg u, h8]
          simp only [List.length_append, List.length_singleton, List.take_succ_cons, List.mem_cons]
          by_cases e : u = t
          · subst e
            rw [if_pos (Or.inl rfl), if_neg fun hh => hnt (List.mem_of_mem_take hh)]
            exact (getAt_putAt_self _ _ _).symm
          · simp only [e, false_or, getAt_putAt_ne _ _ e, commandedGate]
            rfl
        · simp only [List.length_append, List.length_singleton]
          rw [h8]
          simp only [List.take_succ_cons, List.drop_succ_cons, List.map_cons, List.append_assoc, List.singleton_append]
          rfl
    · rw [if_neg (show ¬ _ < queuePlaces from hq)]
      have e : 8 - s.comms.d.queue.length = 0 := by omega
      rw [e] at hg ⊢
      obtain rfl := same (by simpa using hg)
      simp only [List.take_zero, List.map_nil, List.append_nil, List.drop_zero]
      rw [← hw]

/-! ## The tests of RATING and LINE TIMING (R38, R42) -/

theorem curveOrdered_iff (l : List RatingPoint) :
    curveOrdered l = true
      ↔ ∀ k a b, l[k]? = some a → l[k + 1]? = some b → a.head < b.head ∧ a.flow ≤ b.flow := by
  induction l with
  | nil => simp [curveOrdered]
  | cons p l ih =>
    cases l with
    | nil => simp [curveOrdered]
    | cons q rest =>
      simp only [curveOrdered, Bool.and_eq_true, decide_eq_true_iff, ih]
      constructor
      · rintro ⟨⟨h1, h2⟩, h⟩ k a b ha hb
        cases k with
        | zero =>
          simp at ha hb
          subst ha hb
          exact ⟨h1, h2⟩
        | succ k => exact h k a b (by simpa using ha) (by simpa using hb)
      · intro h
        exact ⟨h 0 p q rfl rfl, fun k a b ha hb => h (k + 1) a b (by simpa using ha) (by simpa using hb)⟩

/-- Two windows that hold a unit each are apart exactly when no unit lies within both. -/
theorem windowsApart_iff {v w : Window} (hv : v.lo ≤ v.hi) (hw : w.lo ≤ w.hi) :
    windowsApart v w = true ↔ ¬ ∃ unit, v.lo ≤ unit ∧ unit ≤ v.hi ∧ w.lo ≤ unit ∧ unit ≤ w.hi := by
  simp only [windowsApart, Bool.or_eq_true, decide_eq_true_iff]
  constructor
  · rintro h ⟨u, a, b, c, d⟩
    omega
  · intro h
    by_contra hc
    exact h ⟨max v.lo w.lo, by omega, by omega, by omega, by omega⟩

theorem timingApart_iff {x : LineTiming} (h : timingInRange x = true) :
    timingApart x = true ↔ [x.lead, x.mark, x.one, x.zero].Pairwise fun v w =>
      ¬ ∃ unit, v.lo ≤ unit ∧ unit ≤ v.hi ∧ w.lo ≤ unit ∧ unit ≤ w.hi := by
  obtain ⟨h1, h2, h3, h4⟩ : x.lead.lo ≤ x.lead.hi ∧ x.mark.lo ≤ x.mark.hi ∧ x.one.lo ≤ x.one.hi
      ∧ x.zero.lo ≤ x.zero.hi := by
    simp [timingInRange, windowInRange] at h
    simp_all
  simp only [timingApart, Bool.and_eq_true, windowsApart_iff h1 h2, windowsApart_iff h1 h3, windowsApart_iff h1 h4,
    windowsApart_iff h2 h3, windowsApart_iff h2 h4, windowsApart_iff h3 h4, List.pairwise_cons, List.mem_cons,
    List.not_mem_nil, or_false, forall_eq_or_imp, forall_eq, List.Pairwise.nil, and_true, false_implies, implies_true]
  tauto

end Sys2Proof.Machine
end

