-- ==== Sys2Proof/Laws/Orders.lean ====
section
/-! SUPPORT. Laws/Orders.lean: the seconds that the order and carriage units test, and what the end of an order does to
the order table. -/

namespace Sys2Proof.Machine

/-! ## Every second -/

/-- A second lies in a span from `a` on, before `b` when `b` is given. -/
def inSpan (a : Nat) (b : Option Nat) (t : Nat) : Prop := a ≤ t ∧ ∀ e, b = some e → t < e

theorem everySecond_of_forall {a : Nat} {b : Option Nat} {rises : List Nat} {p : Nat → Bool}
    (h : ∀ t, inSpan a b t → p t = true) : everySecond a b rises p = true := by
  unfold everySecond
  rw [List.all_eq_true]
  intro t _
  dsimp only
  cases b with
  | none =>
    by_cases ht : a ≤ t
    · simp [h t ⟨ht, by simp⟩]
    · simp [ht]
  | some e =>
    by_cases ht : a ≤ t ∧ t < e
    · simp [h t ⟨ht.1, by simpa using ht.2⟩]
    · simp only [Bool.or_eq_true, Bool.not_eq_true', Bool.and_eq_false_iff, decide_eq_false_iff_not]
      left
      omega

theorem everySecond_at {a : Nat} {b : Option Nat} {rises : List Nat} {p : Nat → Bool}
    (h : everySecond a b rises p = true) {t : Nat} (hs : inSpan a b t) (hm : t = a ∨ t ∈ rises) : p t = true := by
  unfold everySecond at h
  rw [List.all_eq_true] at h
  have h' := h t (by simpa using hm)
  cases b with
  | none => simpa [hs.1] using h'
  | some e =>
    have := hs.2 e rfl
    simpa [hs.1, this] using h'

/-- The seconds tested stand for all: where a test that fails at a second fails at the one before it or the second is
one of the rises, the tests made decide every second of the span. -/
theorem everySecond_iff {a : Nat} {b : Option Nat} {rises : List Nat} {p : Nat → Bool}
    (hr : ∀ t, p (t + 1) = false → t + 1 ∈ rises ∨ p t = false) :
    everySecond a b rises p = true ↔ ∀ t, inSpan a b t → p t = true := by
  refine ⟨fun h => ?_, everySecond_of_forall⟩
  intro t
  induction t with
  | zero =>
    intro hs
    exact everySecond_at h hs (Or.inl (by have := hs.1; omega))
  | succ t ih =>
    intro hs
    by_cases ha : t + 1 = a
    · exact everySecond_at h hs (Or.inl ha)
    · cases hp : p (t + 1) with
      | true => rfl
      | false =>
        rcases hr t hp with hm | hp'
        · rw [everySecond_at h hs (Or.inr hm)] at hp
          simp at hp
        · have : inSpan a b t := ⟨by have := hs.1; omega, fun e he => by have := hs.2 e he; omega⟩
          rw [ih this] at hp'
          simp at hp'

/-! ## Sums of rates -/

/-- A sum over the records that a test picks grows with the test. -/
theorem sum_filter_mono {α : Type} {f : α → Nat} {p q : α → Bool} {l : List α}
    (h : ∀ x ∈ l, p x = true → q x = true) : ((l.filter p).map f).sum ≤ ((l.filter q).map f).sum := by
  induction l with
  | nil => simp
  | cons x l ih =>
    have ih' := ih fun y hy => h y (by simp [hy])
    have hx := h x (by simp)
    cases hp : p x <;> cases hq : q x <;> (simp_all; try omega)

/-- A sum of rates rises only at a second at which a window begins. -/
theorem rateAt_step {p : OrderRec → Bool} {table : List OrderRec} {t : Nat} (h : t + 1 ∉ orderStarts table) :
    rateAt p table (t + 1) ≤ rateAt p table t := by
  unfold rateAt
  refine sum_filter_mono fun o ho hp => ?_
  simp only [Bool.and_eq_true, orderCovers, covers, decide_eq_true_eq] at hp ⊢
  have hne : o.start ≠ t + 1 := fun e => h (by simpa [orderStarts, ← e] using ⟨o, ho, rfl⟩)
  exact ⟨hp.1, by omega, by omega⟩

theorem inflowSum_step {tail lag : Nat} {table : List OrderRec} {list : List CarriageRec} {t : Nat}
    (h : t + 1 ∉ inflowRises lag table list) :
    inflowSum tail lag table list (t + 1) ≤ inflowSum tail lag table list t := by
  unfold inflowSum
  simp only [inflowRises, List.mem_append, not_or] at h
  have h1 : ((table.filter (shiftedCovers lag (t + 1))).map (·.rate)).sum
      ≤ ((table.filter (shiftedCovers lag t)).map (·.rate)).sum := by
    refine sum_filter_mono fun o ho hp => ?_
    simp only [shiftedCovers, covers, Bool.and_eq_true, decide_eq_true_eq] at hp ⊢
    have hne : o.start - lag ≠ t + 1 := fun e => h.1 (List.mem_map.2 ⟨o, ho, e⟩)
    omega
  have h2 : ((list.filter fun r => covers r.start r.stop (t + 1)).map (·.rate)).sum
      ≤ ((list.filter fun r => covers r.start r.stop t).map (·.rate)).sum := by
    refine sum_filter_mono fun o ho hp => ?_
    simp only [covers, Bool.and_eq_true, decide_eq_true_eq] at hp ⊢
    have hne : o.start ≠ t + 1 := fun e => h.2 (List.mem_map.2 ⟨o, ho, e⟩)
    omega
  omega

/-- A limit on a sum of rates, tested where windows begin, is tested at every second. -/
theorem everySecond_rateAt {p : OrderRec → Bool} {table : List OrderRec} {a : Nat} {b : Option Nat} {r limit : Nat} :
    everySecond a b (orderStarts table) (fun t => decide (rateAt p table t + r ≤ limit)) = true
      ↔ ∀ t, inSpan a b t → rateAt p table t + r ≤ limit := by
  rw [everySecond_iff]
  · simp
  · intro t ht
    by_cases hm : t + 1 ∈ orderStarts table
    · exact Or.inl hm
    · right
      have := rateAt_step (p := p) hm
      simp only [decide_eq_false_iff_not] at ht ⊢
      omega

theorem everySecond_inflow {tail lag : Nat} {table : List OrderRec} {list : List CarriageRec} {a : Nat}
    {b : Option Nat} {r limit : Nat} :
    everySecond a b (inflowRises lag table list) (fun t => decide (inflowSum tail lag table list t + r ≤ limit)) = true
      ↔ ∀ t, inSpan a b t → inflowSum tail lag table list t + r ≤ limit := by
  rw [everySecond_iff]
  · simp
  · intro t ht
    by_cases hm : t + 1 ∈ inflowRises lag table list
    · exact Or.inl hm
    · right
      have := inflowSum_step (tail := tail) hm
      simp only [decide_eq_false_iff_not] at ht ⊢
      omega

/-- The test of every booked draw from the present on. -/
theorem drawLaw_iff {limit : Nat} {s : State} :
    drawLaw limit s = true ↔ ∀ t, now s ≤ t → bookedDraw s.orders.table t ≤ limit := by
  unfold drawLaw
  rw [everySecond_iff]
  · simp [inSpan]
  · intro t ht
    by_cases hm : t + 1 ∈ orderStarts s.orders.table
    · exact Or.inl hm
    · right
      have h1 := rateAt_step (p := inGeneral) hm
      have h2 := rateAt_step (p := inFrost) hm
      rw [decide_eq_false_iff_not] at ht ⊢
      unfold bookedDraw generalSum frostSum at ht ⊢
      omega

/-- The test of the law of the carriage capacity from the present on. -/
theorem carriageLaw_iff {capacity tail : Nat} {s : State} :
    carriageLaw capacity tail s = true
      ↔ ∀ t, now s ≤ t →
          inflowSum tail s.tables.reach.travelLag s.orders.table s.carriage.list t ≤ capacity := by
  have h := everySecond_inflow (tail := tail) (lag := s.tables.reach.travelLag) (table := s.orders.table)
    (list := s.carriage.list) (a := now s) (b := none) (r := 0) (limit := capacity)
  simpa [carriageLaw, inSpan] using h

/-- A second of a window at which a sum exceeds a limit. -/
theorem coversOver_iff {o : OrderRec} {a b limit : Nat} {p : OrderRec → Bool} {table : List OrderRec} :
    coversOver o a b (rateAt p table) limit table = true
      ↔ ∃ t, o.start ≤ t ∧ a ≤ t ∧ t < o.stop ∧ t < b ∧ limit < rateAt p table t := by
  have h := everySecond_rateAt (p := p) (table := table) (a := max o.start a) (b := some (min o.stop b)) (r := 0)
    (limit := limit)
  simp only [Nat.add_zero] at h
  unfold coversOver someSecondOver
  rw [Bool.not_eq_true', ← Bool.not_eq_true, h]
  simp only [inSpan, Option.some.injEq, forall_eq', not_forall]
  constructor
  · rintro ⟨t, hs, hl⟩
    exact ⟨t, by omega, by omega, by omega, by omega, by omega⟩
  · rintro ⟨t, h1, h2, h3, h4, h5⟩
    exact ⟨t, ⟨by omega, by omega⟩, by omega⟩

/-! ## Order ends -/

theorem drawFor_orders (k n : Nat) (s : State) : (drawFor k n s).orders = s.orders := by
  unfold drawFor; split <;> rfl

theorem closeForEnd_orders (o : OrderRec) (s : State) : (closeForEnd o s).orders = s.orders :=
  (closeForEnd_within o s).keeps .orders (by decide)

/-- The end of an order takes its record and its booked times out of the order unit, and does nothing else to it. -/
@[simp] theorem endOrder_orders (c : EndCause) (o : OrderRec) (s : State) :
    (endOrder c o s).orders = dropOrder o.tag s.orders := by
  have h : ∀ t : State, (sendEnded o c t).orders = t.orders := fun t => by
    unfold sendEnded; rw [drawFor_orders]; rfl
  unfold endOrder
  dsimp only
  split
  · rw [h, closeForEnd_orders]
  · show (sendEnded o c _).orders = _
    rw [h, closeForEnd_orders]

@[simp] theorem dropOrder_table (tag : Nat) (u : OrderUnit) :
    (dropOrder tag u).table = u.table.filter fun o => o.tag != tag := rfl

/-- An end leaves a part of the table as it stood, in its order. -/
theorem endTag_sublist (c : EndCause) (s : State) (tag : Nat) :
    (endTag c s tag).orders.table.Sublist s.orders.table := by
  unfold endTag
  split
  · rw [endOrder_orders]; exact List.filter_sublist
  · exact List.Sublist.refl _

theorem foldl_sublist {f : State → Nat → State}
    (h : ∀ s tag, (f s tag).orders.table.Sublist s.orders.table) (tags : List Nat) (s : State) :
    (tags.foldl f s).orders.table.Sublist s.orders.table := by
  induction tags generalizing s with
  | nil => exact List.Sublist.refl _
  | cons tag tags ih => exact (ih _).trans (h s tag)

theorem endTags_sublist (c : EndCause) (tags : List Nat) (s : State) :
    (endTags c tags s).orders.table.Sublist s.orders.table :=
  foldl_sublist (endTag_sublist c) tags s

theorem bumpTag_sublist (a b n : Nat) (s : State) (tag : Nat) :
    (bumpTag a b n s tag).orders.table.Sublist s.orders.table := by
  unfold bumpTag
  split
  · exact List.Sublist.refl _
  · split
    · rw [endOrder_orders]; exact List.filter_sublist
    · exact List.Sublist.refl _

theorem bump82_sublist (f : OrderRec) (s : State) : (bump82 f s).orders.table.Sublist s.orders.table :=
  foldl_sublist (bumpTag_sublist _ _ _) _ s

theorem shedTag_sublist (n : Nat) (s : State) (tag : Nat) :
    (shedTag n s tag).orders.table.Sublist s.orders.table := by
  unfold shedTag
  split
  · exact List.Sublist.refl _
  · split
    · rw [endOrder_orders]; exact List.filter_sublist
    · exact List.Sublist.refl _

@[simp] theorem setOrderState_table (tag : Nat) (st : OrderState) (u : OrderUnit) :
    (setOrderState tag st u).table = u.table.map fun o => if o.tag == tag then { o with state := st } else o := rfl

/-- The law of the order table passes to any part of it. -/
theorem ordersApart_sublist {l m : List OrderRec} (h : m.Sublist l) (hl : l.Pairwise Sys2Proof.Safety.ordersApart) :
    m.Pairwise Sys2Proof.Safety.ordersApart :=
  hl.sublist h

/-- A change of records that keeps tag, turnout and window keeps the law of the order table. -/
theorem ordersApart_map {l : List OrderRec} {f : OrderRec → OrderRec}
    (hf : ∀ o, (f o).tag = o.tag ∧ (f o).turnout = o.turnout ∧ (f o).start = o.start ∧ (f o).stop = o.stop)
    (hl : l.Pairwise Sys2Proof.Safety.ordersApart) : (l.map f).Pairwise Sys2Proof.Safety.ordersApart := by
  rw [List.pairwise_map]
  refine hl.imp fun {a b} h => ?_
  obtain ⟨a1, a2, a3, a4⟩ := hf a
  obtain ⟨b1, b2, b3, b4⟩ := hf b
  exact ⟨by rw [a1, b1]; exact h.1, by rw [a2, b2, a3, a4, b3, b4]; exact h.2⟩

theorem findTag_some {tag : Nat} {l : List OrderRec} {o : OrderRec} (h : findTag tag l = some o) :
    o ∈ l ∧ o.tag = tag := by
  unfold findTag at h
  exact ⟨List.mem_of_find?_eq_some h, by simpa using List.find?_some h⟩

theorem findTag_none {tag : Nat} {l : List OrderRec} : findTag tag l = none ↔ ∀ o ∈ l, o.tag ≠ tag := by
  simp [findTag]

/-- Where no tag stands twice, a record of the table is the one of its tag. -/
theorem findTag_of_mem {l : List OrderRec} (ht : l.Pairwise Sys2Proof.Safety.ordersApart) {o : OrderRec} (h : o ∈ l) :
    findTag o.tag l = some o := by
  unfold findTag
  induction l with
  | nil => simp at h
  | cons a l ih =>
    rw [List.pairwise_cons] at ht
    rcases List.mem_cons.1 h with rfl | h
    · simp
    · have hne : (a.tag == o.tag) = false := by simpa using Nat.ne_of_lt (ht.1 o h).1
      rw [List.find?_cons, hne]
      exact ih ht.2 h

/-- The removal of one tag keeps the record of every other. -/
theorem findTag_dropOrder {x y : Nat} (u : OrderUnit) (h : x ≠ y) :
    findTag y (dropOrder x u).table = findTag y u.table := by
  unfold findTag
  rw [dropOrder_table, List.find?_filter]
  congr 1
  funext a
  by_cases e : a.tag = y
  · simp [e, Ne.symm h]
  · simp [e]

/-! ## The walk of shedding and bumping (R82, R94) -/

theorem shedClass_perm (c : OrderClass) (l : List OrderRec) : (shedClass c l).Perm (l.filter fun o => o.cls == c) := by
  unfold shedClass
  refine (((List.reverse_perm _).trans (sortBy_perm _ _)).append
    ((List.reverse_perm _).trans (sortBy_perm _ _))).trans ?_
  have h := List.filter_append_perm (fun o => isProvisional o) (l.filter fun o => o.cls == c)
  rw [List.filter_filter, List.filter_filter] at h
  simpa [Bool.and_comm] using h

/-- The shedding order holds every record of the table once. -/
theorem shedClasses_perm (l : List OrderRec) : (shedClass .normal l ++ shedClass .frost l).Perm l := by
  refine ((shedClass_perm _ _).append (shedClass_perm _ _)).trans ?_
  have h := List.filter_append_perm (fun o : OrderRec => o.cls == .normal) l
  have e : (fun o : OrderRec => o.cls == .frost) = fun o => !(o.cls == .normal) := by
    funext o; cases o.cls <;> rfl
  rw [e]
  exact h

/-- A walk over tags is a walk over their records, where each turn leaves the order unit alone or takes its own record
out of it. `inv` is what the turns keep and rest on. -/
theorem walk_records {step : State → Nat → State} {turn : State → OrderRec → State} {inv : State → Prop}
    (hs : ∀ x o, inv x → findTag o.tag x.orders.table = some o →
      step x o.tag = turn x o ∧ inv (turn x o)
        ∧ ((turn x o).orders = x.orders ∨ (turn x o).orders = dropOrder o.tag x.orders))
    (walk : List OrderRec) (x : State) (hx : inv x) (hw : walk.Pairwise fun a b => a.tag ≠ b.tag)
    (hf : ∀ o ∈ walk, findTag o.tag x.orders.table = some o) :
    (walk.map (·.tag)).foldl step x = walk.foldl turn x := by
  induction walk generalizing x with
  | nil => rfl
  | cons o os ih =>
    obtain ⟨h1, h2, h3⟩ := hs x o hx (hf o (by simp))
    rw [List.pairwise_cons] at hw
    simp only [List.map_cons, List.foldl_cons]
    rw [h1]
    refine ih _ h2 hw.2 fun a ha => ?_
    have hfa := hf a (by simp [ha])
    rcases h3 with h3 | h3
    · rw [h3]; exact hfa
    · rw [h3, findTag_dropOrder _ (hw.1 a ha)]; exact hfa

end Sys2Proof.Machine
end

