-- ==== Sys2Proof/WellFormed.lean ====
section
/-! DEFINITION. WellFormed.lean: which operands a command can carry. -/

namespace Sys2Proof

/-- A line address fits two bytes (01_the_field_line section 1.3). -/
def Addr.ok (a : Addr) : Bool := a.reach < 256 && a.station < 256

/-- A body is 0 to 36 bytes (R11). -/
def bodyOk (b : List Byte) : Bool := b.length ≤ 36

/-- The bytes after request, table and entry number in a TABLE WRITE body (R11, section 2.1). -/
def fieldsOk (b : List Byte) : Bool := b.length ≤ 33

/-- A value the capture counter can hold (R2). -/
def countOk (n : Nat) : Bool := n ≤ 65535

/-- A supply voltage up to the absolute maximum input of 18 V (R190). -/
def levelOk (mv : Nat) : Bool := mv ≤ 18000

/-- A command the block can be given. The checks state widths alone; every value inside them is legal input,
and the rules say what the part does with it. -/
def Instr.ok : Instr → Bool
  | .endGap _ => true
  | .captureSaturation _ => true
  | .routeFrame => true
  | .transmitStart _ quiet => countOk quiet
  | .transmitEnd _ => true
  | .talkerClash _ => true
  | .tableWriteReach _ _ b => fieldsOk b
  | .tableWriteTurnouts _ _ b => fieldsOk b
  | .tableWriteRating _ _ b => fieldsOk b
  | .tableWriteAccounts _ _ b => fieldsOk b
  | .tableWriteTariff _ _ b => fieldsOk b
  | .tableWriteLineTiming _ _ b => fieldsOk b
  | .tableWriteScan _ _ b => fieldsOk b
  | .tableWriteAlertEnables _ _ b => fieldsOk b
  | .tableRead b => bodyOk b
  | .statusRead b => bodyOk b
  | .eventClear b => bodyOk b
  | .orderRead b => bodyOk b
  | .commandRestart _ => true
  | .commandLockTariff _ => true
  | .commandWipe _ => true
  | .storeCommit b => bodyOk b
  | .billReadPeek _ _ _ => true
  | .billReadCollect _ _ _ => true
  | .tick => true
  | .time _ _ b => bodyOk b
  | .frostCall _ _ b => bodyOk b
  | .frostWindowEndReached => true
  | .curtail _ _ b => bodyOk b
  | .periodClose => true
  | .order _ _ b => bodyOk b
  | .orderCancel _ _ b => bodyOk b
  | .confirmAtOrigin a _ b => a.ok && bodyOk b
  | .refuseAtOrigin a _ b => a.ok && bodyOk b
  | .holdDeadlineReached => true
  | .startReached => true
  | .endReached => true
  | .demand a c _ b => a.ok && c.ok && bodyOk b
  | .confirmPassing a c _ b => a.ok && c.ok && bodyOk b
  | .refusePassing a c _ b => a.ok && c.ok && bodyOk b
  | .release a c _ b => a.ok && c.ok && bodyOk b
  | .carriageHoldDeadlineReached => true
  | .windowEndReached => true
  | .gateReport _ _ b => bodyOk b
  | .gateReplyTimeout _ => true
  | .gateTravelTimeout _ => true
  | .scanIntervalExpiry => true
  | .pollReplyTimeout => true
  | .headReading _ _ b => bodyOk b
  | .storeOperationEnd _ => true
  | .supplyLow v => levelOk v
  | .supplyNormal v => levelOk v
  | .supplyBackup v => levelOk v
  | .supplyRestart v => levelOk v
  | .inactiveEdge _ width => countOk width
  | .activeEdge _ => true
  | .loadingComplete => true
  | .workingMemoryLoss v => levelOk v

end Sys2Proof
end

