-- ==== Sys2Proof/Tests/Slice0.lean ====
section
/-! SUPPORT. Tests/Slice0.lean: ill-formed commands, worked examples of the spec, and for every statement with
hypotheses a state and operands that meet them. -/

namespace Sys2Proof.Tests

open Sys2Proof.Machine Sys2Proof.Safety

set_option maxRecDepth 20000

/-! ## Ill-formed commands -/

theorem test_bad_address : Instr.ok (.confirmAtOrigin ⟨256, 0⟩ false []) = false
    ∧ Instr.ok (.refuseAtOrigin ⟨0, 256⟩ false []) = false ∧ Instr.ok (.demand ⟨0, 0⟩ ⟨256, 0⟩ false []) = false := by
  decide

theorem test_bad_body : Instr.ok (.tableRead (List.replicate 37 0)) = false
    ∧ Instr.ok (.order 0 false (List.replicate 37 0)) = false
    ∧ Instr.ok (.tableRead (List.replicate 36 0)) = true := by decide

theorem test_bad_fields : Instr.ok (.tableWriteReach 0 0 (List.replicate 34 0)) = false
    ∧ Instr.ok (.tableWriteReach 0 0 (List.replicate 33 0)) = true := by decide

theorem test_bad_count : Instr.ok (.transmitStart .u 65536) = false ∧ Instr.ok (.inactiveEdge .d 65536) = false
    ∧ Instr.ok (.inactiveEdge .d 65535) = true := by decide

theorem test_bad_level : Instr.ok (.supplyLow 18001) = false ∧ Instr.ok (.supplyRestart 18000) = true := by decide

/-! ## States for the tests -/

/-- The state of an outcome. -/
def out (o : Host.Outcome State Fault Refusal) : State :=
  match o with
  | .next t => t
  | _ => State.reset

/-- Reach 5, with room for one order of 30 l/s. -/
def reach5 : ReachTable :=
  { number := 5, capacity := 1000, localDraw := 300, tailMin := 10, travelLag := 60, orderLead := 3600 }

/-- Account 77 in slot 1, permitted on turnout 1. -/
def account77 : AccountEntry :=
  { number := 77, permitted := 1, allotment := 4000, active := true, frostEligible := true, overdraft := 100 }

/-- A part at rest: assigned, clock SET, turnout 1 enabled and ready, account 77 in slot 1. -/
def part5 : State :=
  { State.reset with
    comms := {}
    tables := { reach := reach5, turnouts := (Vector.replicate 16 {}).set 0 { enabled := true },
                accounts := (Vector.replicate 64 {}).set 0 account77 }
    gates := (Vector.replicate 16 {}).set 0 { ready := true }
    clock := { status := .set, period := 3, seconds := 1000, run := 1000, drawLimit := 300 } }

/-- The same part unassigned. -/
def part0 : State := { part5 with tables := { part5.tables with reach := { reach5 with number := 0 } } }

/-- A part with a port unit changed. -/
def withU (x : PortUnit) : State := { part5 with comms := { u := x } }

/-- An order of account 77 on turnout 1. -/
def order1 (st : OrderState) : OrderRec := ⟨1, 9, 77, 0, .normal, 5000, 6000, 20, st⟩

/-- A part with one order and one raised event. -/
def withOrder (o : OrderRec) (e : List OrderEvent) : State :=
  { part5 with orders := { table := [o], tagCounter := 1, raised := e } }

/-- A reservation of reach 7, tag 2. -/
def passing (st : CarriageState) : CarriageRec := ⟨7, 2, .normal, 4000, 5000, 50, st⟩

/-- A part with one reservation and one raised event. -/
def withPassing (r : CarriageRec) (e : List CarriageEvent) : State := { part5 with carriage := ⟨[r], e⟩ }

/-- A part with a gate record on turnout 1. -/
def withGate (g : GateRec) : State := { part5 with gates := (Vector.replicate 16 {}).set 0 g }

/-- A part that scans station 17 with a poll outstanding. -/
def polling (r : StationRec) : State :=
  { part5 with
    tables := { part5.tables with scan := { inflow := true } }
    scan := { stations := (Vector.replicate 18 {}).set 16 r, list := [16], phase := .scanning 12 1 16 [],
              outstanding := true, pollTimer := some 800, interval := some 60 } }

/-- A store operation on the REACH region. -/
def operation (commit : Option Byte) : StoreOp := ⟨⟨1, 3⟩, .reach reach5, commit, false⟩

/-- A part with a store operation in flight. -/
def storing (commit : Option Byte) (waiting : Bool) : State :=
  { part5 with store := { op := some (operation commit), waiting := waiting } }

/-- A part stopped in BACKUP with nothing in its store. -/
def stopped : State :=
  { State.reset with supply := { level := 5000, status := .backup, retention := false, relayClosed := true } }

theorem acted {k : Nat} {q : Byte} {s : State} (h : Runs s) (h1 : s.mgmt.state = .ready)
    (h2 : s.mgmt.lastReply = none) : ActedOn k q s :=
  ⟨h, h1, fun r hr => by simp [h2] at hr⟩

theorem acted_part5 (k : Nat) (q : Byte) : ActedOn k q part5 := acted (by decide) rfl rfl

/-! ## Worked examples of the spec -/

/-- R12. -/
theorem test_check : crc16 [0x31, 0x32, 0x33, 0x34, 0x35, 0x36, 0x37, 0x38, 0x39] = 0x29B1 := by decide

/-- R3 at the bounds of the factory windows. -/
theorem test_classifier :
    [650, 651, 500, 499, 450, 350, 349, 275, 200, 199, 150, 75, 74].map (classify {}) =
      [.lead, .unclassified, .lead, .unclassified, .mark, .mark, .unclassified, .one, .one, .unclassified, .zero,
        .zero, .unclassified] := by decide

/-- R25: the factory widths. -/
theorem test_widths : beginTransmission {} (mkFrame ⟨5, 1⟩ ⟨5, 0⟩ 0x31 [0, 0] false)
    = ⟨mkFrame ⟨5, 1⟩ ⟨5, 0⟩ 0x31 [0, 0] false, 575, 400, 237, 112⟩ := by decide

/-- R151. -/
theorem test_interval : intervalVolume 30 31 61 0 = 1860 ∧ intervalCarry 30 31 61 0 = 1 := by decide

/-- R86, R128. -/
theorem test_openings : initialOpening 30 100 = 300 ∧ initialOpening 1 1000 = 1 ∧ trimOpening 300 30 27 = 333
    ∧ trimOpening 300 30 0 = 1000 := by decide

/-- R164, R165: a credit that crosses a threshold and the allotment. -/
theorem test_price :
    let t : TariffEntry := ⟨1, 2, 3, 10, 20, 30, 40, 50, 1, 0⟩
    price t { allotment := 4 } 500 4000 .frost = ⟨500, 1000, 1000, 1000, 500, 5000 + 20000 + 30000 + 40000 + 25000 + 4000⟩ := by decide

/-- R55: a second passes. -/
theorem test_tick : (out (exec .tick part5)).clock = { part5.clock with seconds := 1001, run := 1001 } := by decide

/-- R79: an order is admitted, and its PROVISIONAL and DEMAND are placed. -/
theorem test_admitted :
    let t := out (exec (.order 0 false (be 1 9 ++ be 2 77 ++ be 1 0 ++ be 3 4600 ++ be 3 900 ++ be 2 30)) part5)
    t.orders.table = [⟨1, 9, 77, 0, .normal, 4600, 5500, 30, .provisional 1600⟩]
      ∧ t.comms.d.queue.length = 1 ∧ t.comms.u.queue.length = 1 := by decide

/-- R82, R87: a RUNNING order ends and its gate closes. -/
theorem test_ended :
    let g : GateRec := { state := .opened, commanded := 200, ready := true }
    let s := { withOrder (order1 (.running 1 500 0)) [⟨.endReached, 1⟩] with gates := (Vector.replicate 16 {}).set 0 g }
    let t := out (exec .endReached s)
    t.orders.table = [] ∧ (getAt t.gates 0).commanded = 0 ∧ (getAt t.gates 0).runOut = some 77
      ∧ t.comms.d.queue.length = 2 := by decide

/-- R169, R186, R187, R188: the first power-on. -/
theorem test_first_power_on :
    (out (exec .loadingComplete (out (exec (.supplyRestart 12000) stopped)))).comms = State.reset.comms := by decide

/-! ## Witnesses: steps and line ports -/

theorem witness_StepTakesTheFrontCommand : State.reset.pending = [] := rfl

theorem witness_EveryCommandAnswersNext : isRunning stopped = false ∧ takenWhileStopped .tick = false := by decide

theorem witness_FrameCommandsAreRouted : Runs part5 ∧ Runs part0 ∧ ownReach part0 = 0 := by decide

theorem witness_PulsesAreClassified : timingApart {} = true
    ∧ (PulseEnds .u (withU { active := true, counter := 65534, receiver := .idle }))
    ∧ (unitAt .u (withU { active := true, counter := 65535, receiver := .idle })).counter = 65535
    ∧ (∀ v ∈ [(⟨500, 650⟩ : Window), ⟨350, 450⟩, ⟨200, 275⟩, ⟨75, 150⟩], 499 < v.lo ∨ v.hi < 499) :=
  ⟨by decide, ⟨by decide, rfl, rfl, by decide⟩, rfl, by decide⟩

theorem witness_PulsesAreClassified_frame :
    PulseEnds .u (withU { active := true, counter := 65534, receiver := .frame [1] [true] true })
    ∧ (out (exec (.captureSaturation .u) (withU { active := true, receiver := .frame [1] [true] true }))).comms.u.receiver
        = .discard
    ∧ (out (exec (.captureSaturation .u) (withU { active := true, receiver := .frame [] [] false }))).comms.u.counts.symbolErrors
        = 1 :=
  ⟨⟨by decide, rfl, rfl, by decide⟩, by decide, by decide⟩

theorem witness_ReceiverTakesSymbols :
    PulseEnds .u (withU { active := true, receiver := .frame (List.replicate 44 0) (List.replicate 7 true) false })
    ∧ PulseEnds .u (withU { active := true, receiver := .frame (List.replicate 43 0) (List.replicate 6 true) true })
    ∧ GapComes .u (withU { receiver := .idle })
    ∧ [500, 350, 200, 75, 499].map (classify part5.tables.timing) = [.lead, .mark, .one, .zero, .unclassified] :=
  ⟨⟨by decide, rfl, rfl, by decide⟩, ⟨by decide, rfl, rfl, by decide⟩, ⟨by decide, rfl, rfl, rfl, by decide⟩,
    by decide⟩

/-- A whole frame of 36 body bytes. -/
def longest : Frame := mkFrame ⟨255, 255⟩ ⟨255, 255⟩ 255 (List.replicate 36 1) true

/-- Of EndGapClosesTheFrame and CheckAndAcceptance. -/
theorem witness_EndGapClosesTheFrame :
    GapComes .u (withU { receiver := .frame (frameBytes longest) [] true, holding := [longest] })
    ∧ GapComes .u (withU { receiver := .frame (frameBytes longest) [] true, holding := [longest, longest] })
    ∧ GapComes .u (withU { receiver := .frame [] [true] false })
    ∧ FrameFits ⟨255, 255⟩ ⟨255, 255⟩ 255 (List.replicate 36 1)
    ∧ ((List.replicate 7 0 : List Byte).length < 8 ∧ 44 < (List.replicate 45 0 : List Byte).length)
    ∧ PulseEnds .u (withU { active := true, receiver := .discard }) :=
  ⟨⟨by decide, rfl, rfl, rfl, by decide⟩, ⟨by decide, rfl, rfl, rfl, by decide⟩, ⟨by decide, rfl, rfl, rfl, by decide⟩,
    by unfold FrameFits; decide, by decide, ⟨by decide, rfl, rfl, by decide⟩⟩

theorem witness_TransmissionsBeginEndAndClash_ends : Runs part5 ∧ (unitAt .d part5).inFlight = none
    ∧ (unitAt .u (withU { inFlight := some (beginTransmission {} longest) })).inFlight.isSome = true := by decide

/-- The unmarked head of a queue whose port waits after a clash: 1000 + 500 + 750 units at reach 5. -/
def waitingUnit : PortUnit :=
  { gapRaised := true, clashWait := true, queue := [{ longest with marked := false }] }

theorem witness_TransmissionsBeginEndAndClash_begins : Runs (withU waitingUnit)
    ∧ (withU waitingUnit).tables.timing.endGap + 500 + (1 + ownReach (withU waitingUnit) % 8) * 125 = 2250
    ∧ ((out (exec (.transmitStart .u 2250) (withU waitingUnit))).comms.u.inFlight.isSome = true)
    ∧ (out (exec (.transmitStart .u 2249) (withU waitingUnit))).comms.u.inFlight = none := by decide

/-- The unit U after a TRANSMIT_START that finds a quiet time. -/
def started (quiet : Nat) (x : PortUnit) : PortUnit := (out (exec (.transmitStart .u quiet) (withU x))).comms.u

theorem witness_TransmissionsBeginEndAndClash_gap :
    (started 999 { queue := [longest] }).inFlight = none ∧ (started 999 { queue := [longest] }).gapRaised = false
    ∧ (started 1000 { queue := [longest] }).inFlight.isSome = true
    ∧ (started 1000 { queue := [{ longest with marked := false }] }).inFlight = none
    ∧ (started 1000 { queue := [{ longest with marked := false }] }).gapRaised = true
    ∧ (started 65535 { gapRaised := true }).inFlight = none := by decide

theorem witness_TransmittedFrameIsReceived : timingInRange {} = true ∧ timingApart {} = true
    ∧ longest.body.length = 36 := by decide

/-! ## Witnesses: queues, flags, router -/

/-- A short frame. -/
def short (marked : Bool) : Frame := mkFrame ⟨0, 0⟩ ⟨5, 0⟩ 0x7D [] marked

theorem witness_FrameJoinsOrDrops :
    (unitAt .u (withU { queue := List.replicate 3 (short true) ++ List.replicate 5 (short false) })).queue.length = 8
    ∧ (∀ g ∈ List.replicate 3 (short true), g.marked = true) ∧ (∀ g ∈ List.replicate 5 (short false), g.marked = false)
    ∧ List.replicate 5 (short false) = List.replicate 4 (short false) ++ [short false]
    ∧ (unitAt .u (withU { queue := List.replicate 8 (short true) })).queue.length = 8
    ∧ (unitAt .u (withU { queue := List.replicate 7 (short true) })).queue.length < 8 := by decide

theorem witness_FlagIsRaised : State.reset.comms.flags.getLsbD (flagIndex .restarted) = true
    ∧ part5.comms.flags.getLsbD (flagIndex .lineFault) = false
    ∧ part5.tables.enables.getLsbD (flagIndex .lineFault) = true
    ∧ (0xFFFE#16).getLsbD (flagIndex .lineFault) = false := by decide

/-- Both holdings contain a frame. -/
def bothHold (last : Option Port) : State :=
  { part5 with comms := { u := { holding := [short true] }, d := { holding := [short false] } }, lastTaken := last }

theorem witness_RouterTakesTheNextFrame : Runs (bothHold none)
    ∧ (unitAt .u (bothHold none)).holding = [short true] ∧ (bothHold none).lastTaken = none
    ∧ (bothHold (some .u)).lastTaken = some (otherPort .d)
    ∧ (unitAt (otherPort .d) { bothHold none with comms := { d := { holding := [short true] } } }).holding = [] := by
  decide

/-- Of RoutesFromUpstream and RoutesFromDownstreamOrUnassigned. -/
theorem witness_Routes : Assigned part5 ∧ ownReach part5 = 5 ∧ ownReach part0 = 0
    ∧ (∀ d ∈ [0, 4, 5, 6, 250, 251, 254, 255], d < 256)
    ∧ 0x7C ∈ [0x71, 0x72, 0x74, 0x75, 0x77, 0x78, 0x7A, 0x7C] := by
  refine ⟨⟨by decide, by decide⟩, by decide, by decide, by decide, by decide⟩

/-- Whether a frame consumed at the U port is dropped with a refused-source count. -/
def refusedUp (dst src : Addr) (kind : Nat) : Bool :=
  (deliverUp (mkFrame dst src kind [] false) part5).comms.u.counts.refusedSource == 1

/-- Whether a frame consumed at the D port is dropped with a refused-source count. -/
def refusedDown (station kind : Nat) : Bool :=
  (deliverDown (mkFrame ⟨5, 0⟩ ⟨5, station⟩ kind [] false) part5).comms.d.counts.refusedSource == 1

/-- Of the clauses of R18. -/
theorem witness_Routes_consumed :
    [refusedUp ⟨5, 0⟩ ⟨4, 0⟩ 0x52, refusedUp ⟨5, 0⟩ ⟨5, 0⟩ 0x52, refusedUp ⟨255, 0⟩ ⟨4, 0⟩ 0x52,
      refusedUp ⟨5, 0⟩ ⟨0, 0⟩ 0x7C, refusedUp ⟨255, 0⟩ ⟨0, 0⟩ 0x7C, refusedUp ⟨5, 0⟩ ⟨0, 1⟩ 0x7C, refusedUp ⟨5, 0⟩ ⟨0, 0⟩ 0x73]
      = [false, true, true, false, true, true, true]
    ∧ [refusedDown 1 0x21, refusedDown 16 0x21, refusedDown 17 0x21, refusedDown 0 0x21, refusedDown 19 0x42,
        refusedDown 1 0x51] = [false, false, true, true, true, true] := by decide

/-! ## Witnesses: management -/

/-- A part whose RESTART is pending, with a stored reply. -/
def pendingPart : State :=
  { part5 with mgmt := { part5.mgmt with
      state := .restartPending
      lastReply := some ⟨7, 0x7C, mkFrame ⟨0, 0⟩ ⟨5, 0⟩ 0x7D [7, 0x7C, 1] false⟩ } }

theorem witness_RepeatsAndPendingCommands : asRequest (.commandRestart 7) = some (0x7C, [7, 1]) ∧ Runs pendingPart
    ∧ pendingPart.mgmt.lastReply = some ⟨7, 0x7C, mkFrame ⟨0, 0⟩ ⟨5, 0⟩ 0x7D [7, 0x7C, 1] false⟩
    ∧ requestNumber [7, 1] = 7 ∧ pendingPart.mgmt.state ≠ .ready
    ∧ asRequest (.tableRead [8, 1, 0, 0]) = some (0x72, [8, 1, 0, 0])
    ∧ asRequest (.storeCommit [8, 9]) = some (0x74, [8, 9]) ∧ ([8, 9] : List Byte)[1]? = some 9 := by decide

/-- A command's request, and the outcome of its write. -/
def bodyReason (body : List Byte) (s : State) : Option Nat :=
  match tryWrite body s with | .error r => some r | .ok _ => none

/-- The same of a command. -/
def writeReason (c : Instr) (s : State) : Option Nat :=
  match asRequest c with
  | some (_, body) => bodyReason body s
  | none => none

theorem witness_TableWriteIsTestedInOrder :
    ActedOn 0x71 1 part5
    ∧ writeReason (.tableWriteTurnouts 1 1 (List.replicate 7 0)) part5 = some 1
    ∧ writeReason (.tableWriteTurnouts 1 17 (turnoutBytes {})) part5 = some 3
    ∧ writeReason (.tableWriteTurnouts 1 0 (turnoutBytes {})) part5 = some 3
    ∧ writeReason (.tableWriteTurnouts 1 1 (turnoutBytes { travelLimit := 9 })) part5 = some 4
    ∧ ([[1, 8], [1, 0, 0], [1, 9, 0], [1, 0], [1, 1, 0]].map fun b => bodyReason b part5)
        = [some 1, some 2, some 2, some 1, some 1] :=
  ⟨acted_part5 _ _, by decide, by decide, by decide, by decide, by decide⟩

/-- Of the ranges, at a bound and beside it, table by table. -/
theorem witness_TableWriteIsTestedInOrder_ranges :
    [writeReason (.tableWriteReach 1 0 (reachBytes { number := 249 })) part5,
      writeReason (.tableWriteReach 1 0 (reachBytes { number := 250 })) part5,
      writeReason (.tableWriteReach 1 0 (reachBytes { reach5 with periodLength := 604799 })) part5,
      writeReason (.tableWriteTurnouts 1 16 (turnoutBytes { travelLimit := 10 })) part5,
      writeReason (.tableWriteAccounts 1 1 (accountBytes { account77 with overdraft := 100001 })) part5,
      writeReason (.tableWriteTariff 1 3 (tariffBytes { threshold2 := 4000001 })) part5,
      writeReason (.tableWriteLineTiming 1 0 (timingBytes { mark := ⟨451, 450⟩ })) part5,
      writeReason (.tableWriteLineTiming 1 0 (timingBytes { mark := ⟨350, 500⟩ })) part5,
      writeReason (.tableWriteScan 1 0 (scanBytes { interval := 9 })) part5,
      writeReason (.tableWriteScan 1 0 (scanBytes { interval := 600 })) part5]
    = [none, some 4, some 4, none, some 4, some 4, some 4, some 5, some 4, none] := by decide

/-- A part with an order that draws 20 l/s and lies in the booked sums. -/
def drawn : State := withOrder (order1 (.confirmed 1)) []

theorem witness_ReachWrite : ActedOn 0x71 1 drawn ∧ reachInRange reach5 = true
    ∧ writeReason (.tableWriteReach 1 0 (reachBytes { reach5 with number := 6 })) drawn = some 10
    ∧ writeReason (.tableWriteReach 1 0 (reachBytes reach5))
        { drawn with clock := { drawn.clock with seconds := 2592000 } } = some 13
    ∧ writeReason (.tableWriteReach 1 0 (reachBytes { reach5 with capacity := 29 })) drawn = some 11
    ∧ writeReason (.tableWriteReach 1 0 (reachBytes { reach5 with localDraw := 19 })) drawn = some 12
    ∧ writeReason (.tableWriteReach 1 0 (reachBytes { reach5 with capacity := 30, localDraw := 20 })) drawn = none :=
  ⟨acted (by decide) rfl rfl, by decide, by decide, by decide, by decide, by decide, by decide⟩

/-- A REACH write that changes the warning level choice, at a level and status. -/
def rewarned (choice level : Nat) (st : SupplyStatus) : State :=
  out (exec (.tableWriteReach 1 0 (reachBytes { reach5 with warnChoice := choice }))
    { part5 with supply := { part5.supply with level := level, status := st } })

theorem witness_ReachWrite_compared : part5.tables.reach.warnChoice ≠ 3 ∧ reachInRange { reach5 with warnChoice := 3 } = true
    ∧ (rewarned 3 11999 .normal).supply.status = .low ∧ (rewarned 3 11999 .normal).store.op.isSome = true
    ∧ (rewarned 3 12000 .normal).supply.status = .normal
    ∧ (rewarned 0 11101 .low).supply.status = .normal ∧ (rewarned 0 11100 .low).supply.status = .low
    ∧ (rewarned part5.tables.reach.warnChoice 10000 .normal).supply.status = .normal := by decide

theorem witness_TurnoutsWrite : ActedOn 0x71 1 part5 ∧ turnoutInRange {} = true ∧ ownReach part5 ≠ 0
    ∧ (getAt part5.tables.turnouts 0).enabled = true ∧ (getAt part5.tables.turnouts 1).enabled = false
    ∧ (getAt part5.gates 0).state = .closed
    ∧ (∃ c, (getAt (withGate { state := .fault .stuck }).gates 0).state = .fault c)
    ∧ (getAt (withGate { state := .moving }).gates 0).state = .moving :=
  ⟨acted_part5 _ _, by decide, by decide, by decide, by decide, by decide, ⟨.stuck, by decide⟩, by decide⟩

/-- Of TurnoutsWrite and GateTimersExpire at an unassigned part. -/
theorem witness_TurnoutsWrite_unassigned :
    let g : GateRec := { state := .moving, commanded := 200, replyTimer := some 10, runOut := some 77 }
    let moving := { part0 with gates := (Vector.replicate 16 {}).set 0 g }
    let t := out (exec (.gateReplyTimeout 0) moving)
    ActedOn 0x71 1 part0 ∧ ownReach part0 = 0
    ∧ (out (exec (.tableWriteTurnouts 1 1 (turnoutBytes { enabled := true })) part0)).gates = part0.gates
    ∧ (out (exec (.tableWriteTurnouts 1 1 (turnoutBytes { enabled := true })) part5)).comms.d.queue.length = 1
    ∧ Runs moving ∧ getAt t.gates 0 = { state := .fault .silent, commanded := 200 } ∧ t.comms.d.queue = []
    ∧ t.comms.flags.getLsbD (flagIndex .gateFault) = true :=
  ⟨acted (by decide) rfl rfl, by decide, by decide, by decide, by decide, by decide, by decide, by decide⟩

theorem witness_AccountsWrite : ActedOn 0x71 1 drawn
    ∧ writeReason (.tableWriteAccounts 1 2 (accountBytes account77)) drawn = some 8
    ∧ writeReason (.tableWriteAccounts 1 1 (accountBytes { account77 with number := 78 })) drawn = some 9
    ∧ writeReason (.tableWriteAccounts 1 2 (accountBytes { account77 with number := 78 })) drawn = none
    ∧ writeReason (.tableWriteAccounts 1 1 (accountBytes {})) part5 = none
    ∧ writeReason (.tableWriteAccounts 1 1 (accountBytes account77)) drawn = none :=
  ⟨acted (by decide) rfl rfl, by decide, by decide, by decide, by decide, by decide⟩

/-- A part whose account's counters stand at an open volume. -/
def counted (volume : Nat) : State :=
  { part5 with metering := { counters := (Vector.replicate 64 {}).set 0 { openVol := volume } } }

theorem witness_AccountsWrite_limits : ActedOn 0x71 1 (counted 3999000)
    ∧ writeReason (.tableWriteAccounts 1 1 (accountBytes {})) (counted 1) = some 9
    ∧ writeReason (.tableWriteAccounts 1 1 (accountBytes { account77 with number := 78 })) part5 = none
    ∧ (out (exec (.tableWriteAccounts 1 1 (accountBytes { account77 with allotment := 3999 }))
        (counted 3999000))).comms.flags.getLsbD (flagIndex .allotmentReached) = true
    ∧ (out (exec (.tableWriteAccounts 1 1 (accountBytes { account77 with allotment := 3999, overdraft := 101 }))
        (counted 3998999))).comms.flags.getLsbD (flagIndex .allotmentReached) = false
    ∧ (out (exec (.tableWriteAccounts 1 1 (accountBytes { account77 with permitted := 2 })) drawn)).orders.table = [] :=
  ⟨acted (by decide) rfl rfl, by decide, by decide, by decide, by decide, by decide⟩

/-- A lowered allotment that the open volume has reached ends the RUNNING NORMAL record; the FROST limit is not reached. -/
theorem witness_AccountsWrite_ended :
    let s := fun cls => { counted 3999000 with
      orders := { table := [{ order1 (.running 1 0 0) with cls := cls }], tagCounter := 1 } }
    let write := exec (.tableWriteAccounts 1 1 (accountBytes { account77 with allotment := 3999 }))
    (out (write (s .normal))).orders.table = [] ∧ (out (write (s .frost))).orders.table = (s .frost).orders.table
      ∧ (out (write (s .frost))).comms.flags.getLsbD (flagIndex .allotmentReached) = true := by decide

/-- A half curve in order. -/
def half : HalfCurve := factoryHalf 0

theorem witness_OtherTableWrites : ActedOn 0x71 1 part5 ∧ halfInRange half = true
    ∧ writeReason (.tableWriteRating 1 7 (halfBytes half)) part5 = some 6
    ∧ writeReason (.tableWriteRating 1 0 (halfBytes half)) part5 = none
    ∧ tariffInRange { threshold2 := 2, threshold3 := 1 } = true
    ∧ tariffInRange { threshold2 := 4000000, threshold3 := 4000000, threshold4 := 4000000 } = true
    ∧ timingInRange { mark := ⟨350, 500⟩ } = true ∧ timingApart { mark := ⟨350, 500⟩ } = false
    ∧ timingInRange { mark := ⟨350, 499⟩ } = true ∧ timingApart { mark := ⟨350, 499⟩ } = true
    ∧ scanInRange { resolution := 16, interval := 10 } = true
    ∧ (unitAt .u (withU { gapRaised := true })).gapRaised = true :=
  ⟨acted_part5 _ _, by decide, by decide, by decide, by decide, by decide, by decide, by decide, by decide, by decide,
    by decide, by decide⟩

/-- Two windows that share the unit 500, two points whose heads do not rise, and two whose heads and flows do. -/
theorem witness_OtherTableWrites_tests :
    (∃ unit, ({} : LineTiming).lead.lo ≤ unit ∧ unit ≤ ({} : LineTiming).lead.hi ∧ (350 ≤ unit ∧ unit ≤ 500))
    ∧ (let low := factoryHalf 6
       ¬ ((getAt (putAt part5.tables.rating 7 half) 6).p6.head < (getAt (putAt part5.tables.rating 7 half) 7).p1.head)
         ∧ low.p1.head < low.p2.head ∧ low.p1.flow ≤ low.p2.flow) :=
  ⟨⟨500, by decide⟩, by decide⟩

/-- A port waits for the end gap when LINE TIMING is written. -/
theorem witness_OtherTableWrites_gap :
    let written := fun gap => (out (exec (.tableWriteLineTiming 1 0 (timingBytes { endGap := gap }))
      (withU { counter := 500, receiver := .discard }))).comms.u
    ActedOn 0x71 1 (withU { counter := 500, receiver := .discard })
      ∧ (written 500).gapRaised = true ∧ (written 500).receiver = .idle ∧ (written 501).gapRaised = false :=
  ⟨acted (by decide) rfl rfl, by decide, by decide, by decide⟩

/-- Of TableReadAnswers, StatusAndOrderReads and EventClear. -/
theorem witness_Reads : ActedOn 0x72 1 part5 ∧ ActedOn 0x75 1 part5 ∧ ActedOn 0x7A 1 drawn ∧ ActedOn 0x77 1 part5
    ∧ part5.metering.record = none ∧ part5.billing.staged = none
    ∧ findTag 1 drawn.orders.table = some (order1 (.confirmed 1)) ∧ orderDraws (order1 (.confirmed 1)) = 0
    ∧ drawn.orders.table[0]? = some (order1 (.confirmed 1)) ∧ (∀ o ∈ drawn.orders.table, o.tag ≠ 2)
    ∧ (withPassing (passing .firm) []).carriage.list[0]? = some (passing .firm) :=
  ⟨acted_part5 _ _, acted_part5 _ _, acted (by decide) rfl rfl, acted_part5 _ _, rfl, rfl, by decide, by decide,
    by decide, by decide, by decide⟩

theorem witness_Reads_refused :
    requestNumber [1, 2, 3] = 1 ∧ requestNumber [1, 0, 0, 2] = 1 ∧ 1 < field [1, 0, 0, 2] 3 1
    ∧ ([2, 3, 0, 2, 1, 0, 0, 0] : List Nat).getD (7 - 1) 0 = 0 ∧ (3 : Byte).toNat = 3
    ∧ (withPassing (passing .firm) []).carriage.list.length ≤ (1 : Byte).toNat
    ∧ ({ part5 with metering := { record := some ⟨3, Vector.replicate 16 none, 1, 2⟩ } } : State).metering.record.isSome = true := by decide

/-- An order whose delivered volume its field cannot hold. -/
def wide : State := withOrder (order1 (.running 1 4294967296 0)) []

/-- STATUS READ while a command is pending, and ORDER READ of a record beyond its fields. -/
theorem witness_StatusAndOrderReads : Runs pendingPart
    ∧ (∀ r, pendingPart.mgmt.lastReply = some r → ¬ (r.request = 7 ∧ r.kind = 0x75))
    ∧ (out (exec (.statusRead [7, 0]) pendingPart)).comms.u.queue.map (fun f => (f.kind, f.body.length)) = [(0x76, 30)]
    ∧ (out (exec (.statusRead [7, 2]) pendingPart)).comms.u.queue.map (fun f => (f.kind, f.body.length)) = [(0x76, 20)]
    ∧ (out (exec (.statusRead [7, 3]) pendingPart)).comms.u.queue.map (fun f => (f.kind, f.body)) = [(0x7D, [7, 0x75, 2, 3])]
    ∧ (out (exec (.orderRead [7, 0, 1]) wide)).free = 10 ∧ (out (exec (.orderRead [7, 0, 1]) drawn)).free = 0 := by
  refine ⟨by decide, ?_, by decide, by decide, by decide, by decide, by decide⟩
  intro r hr
  simp only [pendingPart, Option.some.injEq] at hr
  subst hr
  decide

theorem witness_CommandsInReady : ActedOn 0x7C 1 part5 ∧ wiping part5 = false ∧ part5.store.op = none
    ∧ part5.store.nextSeq < 4294967295 ∧ (storing none false).store.op.isSome = true ∧ part5.billing.lock = false
    ∧ drawn.orders.table ≠ [] ∧ part5.billing.bills = [] ∧ part5.orders.table = [] ∧ part5.carriage.list = [] :=
  ⟨acted_part5 _ _, by decide, by decide, by decide, by decide, by decide, by decide, by decide, by decide, by decide⟩

/-- A copy of ACCOUNT STATE takes the gap of a LOST station. -/
theorem witness_CommandsInReady_copy :
    let r := fun st : StationState => ({ state := st, ref := 900, unmetered := 7 } : StationRec)
    let stations := ((Vector.replicate 18 {}).set 0 (r .lost)).set 1 (r .live)
    let s := { part5 with scan := { part5.scan with stations := stations } }
    getAt (accountCopy s).unmetered 0 = 107 ∧ getAt (accountCopy s).unmetered 1 = 7 ∧ (accountCopy s).active = none
      ∧ (accountCopy { s with billing := { s.billing with lock := true } }).active.isSome = true := by decide

/-- A bill. -/
def bill : Bill := ⟨77, 3, 1, 0, 0, 0, 0, 0, 0, 1, 0, 0, false, none⟩

/-- A part that holds one bill. -/
def billed : State := { part5 with billing := { bills := [bill] } }

/-- Of StoreCommitBegins and BillReads. -/
theorem witness_StoreAndBills : ActedOn 0x74 1 part5 ∧ ActedOn 0x78 1 billed
    ∧ billed.billing.bills[(0 : Byte).toNat]? = some bill ∧ billed.billing.bills.length ≤ (1 : Byte).toNat
    ∧ part5.billing.bills = [] ∧ billed.billing.bills = bill :: [] :=
  ⟨acted_part5 _ _, acted (by decide) rfl rfl, by decide, by decide, rfl, rfl⟩

theorem witness_StoreAndBills_refused :
    requestNumber [1, 10] = 1 ∧ 9 < field [1, 10] 1 1 ∧ requestNumber [1, 2, 0, 0] = 1 ∧ 1 < field [1, 2, 0, 0] 1 1
    ∧ 1 < field [1, 0, 0, 2] 3 1 ∧ (storing none false).store.op.isSome = true := by decide

/-- The copies of StoreCommitBegins, and the erasing of one region. -/
theorem witness_StoreCommitBegins_copies :
    let g := programRegion true ⟨1, 3⟩ (.reach reach5) (programRegion true ⟨2, 3⟩ (.scan {}) {})
    copyOf .reach part5 = .reach reach5 ∧ HoldsCopy g ⟨2, 3⟩ (.scan {}) ∧ imageRegion (.scan {}) ≠ .reach
      ∧ HoldsCopy (eraseRegion .reach g) ⟨2, 3⟩ (.scan {}) ∧ (eraseRegion .reach g).reach = none :=
  ⟨rfl, rfl, by decide, rfl, rfl⟩

/-- The two parts of a bill, and a held close that a COLLECT lets complete. -/
theorem witness_BillReads_parts :
    (billPart 0 bill).length = 28 ∧ (billPart 1 bill).length = 23
    ∧ billPart 1 { bill with heldUntil := some (4, 258), void := true } = be 2 77 ++ be 2 3 ++ be 4 0 ++ be 2 1 ++ be 6 0
        ++ be 6 0 ++ [3, 0, 4, 0, 1, 2]
    ∧ (let s := { counted 5 with billing := { bills := List.replicate 128 bill, closes := [3] } }
       let t := out (exec (.billReadCollect 1 0 0) s)
       t.billing.closes = [] ∧ t.billing.bills.length = 128
         ∧ (t.billing.bills.getLast?.map (·.heldUntil)) = some (some (3, 1000))) := by decide

theorem witness_TableEntriesRoundTrip : reachInRange { reach5 with number := 249, confirmHold := 1800 } = true
    ∧ turnoutInRange { travelLimit := 600 } = true ∧ halfInRange half = true ∧ tariffInRange {} = true
    ∧ timingInRange {} = true ∧ scanInRange {} = true ∧ account77.number < 65536 ∧ account77.allotment ≤ 4000000 := by
  decide

/-! ## Witnesses: clock -/

theorem witness_TickCountsWrapsAndRaises : Runs part5 ∧ State.reset.clock.status = .unset
    ∧ part5.clock.seconds + 1 < part5.tables.reach.periodLength
    ∧ (let s := { part5 with clock := { part5.clock with seconds := 2591999 } }
       s.clock.seconds + 1 = s.tables.reach.periodLength ∧ (out (exec .tick s)).clock.seconds = 0
         ∧ (out (exec .tick s)).clock.period = 4 ∧ (out (exec .tick s)).billing.raised = [3]) := by decide

/-- A part in which, at the present second, an end and a start of two orders and two events of reservations stand. -/
def dueNow : State :=
  { part5 with
    clock := { part5.clock with seconds := 5000 }
    orders := {
      table := [order1 (.confirmed 1), { order1 (.running 2 0 0) with tag := 2, turnout := 1, start := 10, stop := 5000 },
        { order1 (.provisional 4999) with tag := 3, turnout := 2 }]
      tagCounter := 3 }
    carriage := ⟨[passing .firm, { passing (.tentative 4000) with originTag := 3 }], []⟩ }

/-- The order of the events of one advance, and each once. -/
theorem witness_TickCountsWrapsAndRaises_order : OrderLaw dueNow ∧ CarriageLaw dueNow ∧ dueNow.clock.status = .set
    ∧ (raiseDue dueNow).orders.raised = [⟨.holdDeadline, 3⟩, ⟨.endReached, 2⟩, ⟨.startReached, 1⟩]
    ∧ (raiseDue dueNow).carriage.raised = [⟨.holdDeadline, 7, 3⟩, ⟨.windowEnd, 7, 2⟩]
    ∧ (raiseDue (raiseDue dueNow)).orders.raised.length = 3 := by
  refine ⟨⟨by decide, ?_, by decide⟩, ⟨by decide, ?_, by decide⟩, rfl, by decide, by decide, by decide⟩
  · show List.Pairwise ordersApart [_, _, _]
    simp [ordersApart, order1]
  · show List.Pairwise _ [_, _]
    simp [passing]

/-- A TIME to the part. -/
def timeTo (period seconds : Nat) (s : State) : Clock :=
  (out (exec (.time false false (be 2 period ++ be 3 seconds)) s)).clock

theorem witness_TimeIsTaken : Runs part5 ∧ Assigned part5
    ∧ timeTo 3 1120 part5 = { part5.clock with seconds := 1120 } ∧ timeTo 3 1121 part5 = part5.clock
    ∧ timeTo 3 880 part5 = { part5.clock with seconds := 880 } ∧ timeTo 3 879 part5 = part5.clock
    ∧ timeTo 4 1000 part5 = part5.clock ∧ timeTo 3 2592000 part5 = part5.clock
    ∧ (let s := { part5 with clock := { part5.clock with status := .unset, seconds := 0 } }
       (timeTo 3 9 s).status = .set ∧ (timeTo 32770 9 s).period = 32770 ∧ timeTo 32771 9 s = s.clock) := by
  refine ⟨by decide, ⟨by decide, by decide⟩, by decide, by decide, by decide, by decide, by decide, by decide, by decide⟩

theorem witness_FrostCallIsTaken :
    (out (exec (.frostCall true false (be 1 1 ++ be 3 2000 ++ be 3 2001)) part5)).clock.frost = some ⟨2000, 2001⟩
    ∧ (out (exec (.frostCall true false (be 1 1 ++ be 3 2000 ++ be 3 2001)) part5)).comms.d.queue.map (·.marked) = [true]
    ∧ (out (exec (.frostCall false false (be 1 1 ++ be 3 2000 ++ be 3 2000)) part5)).comms.u.counts.refusedSource = 1
    ∧ { part5.clock with frost := some ⟨1, 2⟩, frostEndRaised := true }.frostEndRaised = true := by decide

theorem witness_CurtailIsTaken :
    (out (exec (.curtail false false (be 1 5 ++ be 2 299)) part5)).clock.drawLimit = 299
    ∧ (out (exec (.curtail false false (be 1 5 ++ be 2 300)) part5)).clock.drawLimit = 300
    ∧ (out (exec (.curtail false false (be 1 5 ++ be 2 65535)) part5)).clock.curtail = none
    ∧ (out (exec (.curtail false false (be 1 6 ++ be 2 0)) part5)).clock = part5.clock
    ∧ (out (exec (.curtail false false (be 1 5 ++ be 2 19)) drawn)).orders.table = []
    ∧ (out (exec (.curtail false false (be 1 5 ++ be 2 20)) drawn)).orders.table = drawn.orders.table := by decide

theorem witness_PeriodCloseIsTaken :
    let s := { part5 with
      billing := { part5.billing with raised := [3] }
      metering := { counters := (Vector.replicate 64 {}).set 0 { openVol := 5 } } }
    Runs s ∧ s.billing.raised = 3 :: [] ∧ s.billing.closes = [] ∧ (out (exec .periodClose s)).billing.bills.length = 1
      ∧ (out (exec .periodClose { s with billing := { s.billing with bills := List.replicate 128 bill } })).billing.closes
          = [3] := by decide

theorem witness_PeriodCloseIsTaken_held :
    let s := fun closes : List Nat => { part5 with billing := { part5.billing with
      raised := [3], closes := closes, bills := List.replicate 128 bill } }
    Runs (s [1, 2, 2]) ∧ (s [1, 2, 2]).billing.raised = [3]
      ∧ (out (exec .periodClose (s [1, 2, 2]))).billing.raised = []
      ∧ (out (exec .periodClose (s [1, 2, 2, 2]))).billing.raised = [] := by decide

/-- The completion test: two closes complete one after another, the second with nothing to bill; without room none. -/
theorem witness_PeriodCloseIsTaken_test :
    let s := fun bills => { counted 5 with billing := { bills := List.replicate bills bill, closes := [2, 3] } }
    (completionTest true 2 (s 127)).billing.closes = [] ∧ (completionTest true 2 (s 127)).billing.bills.length = 128
      ∧ (completionTest true 1 (s 127)).billing.closes = [3] ∧ (completionTest true 2 (s 128)).billing.closes = [2, 3]
      ∧ (completionTest true 2 (s 128)).comms.flags.getLsbD (flagIndex .closeHeld) = true
      ∧ (sortBy (·.account) [bill, { bill with account := 5 }]).map (·.account) = [5, 77] := by decide

/-! ## Witnesses: orders -/

theorem order_law {o : OrderRec} (h : 1 ≤ o.tag ∧ o.tag ≤ 255) (e : List OrderEvent) : OrderLaw (withOrder o e) :=
  ⟨by show [o].length ≤ 48; simp, by show List.Pairwise ordersApart [o]; simp,
    by intro x hx; simp [withOrder] at hx; rw [hx]; exact h⟩

theorem witness_SheddingAndBumpingMakeRoom : OrderLaw drawn
    ∧ (∀ x ∈ [5000, 5999], frostSum drawn.orders.table x ≤ drawn.clock.drawLimit) :=
  ⟨order_law (by decide) _, by decide⟩

/-- Six orders of 20 l/s on six turnouts, of both classes and every state. The last covers no second of the others. -/
def crowded : State :=
  let o := fun (tag : Nat) (cls : OrderClass) (st : OrderState) =>
    { order1 st with tag := tag, turnout := Fin.ofNat 16 tag, cls := cls }
  { part5 with orders := { tagCounter := 6, confCounter := 3, table :=
      [o 1 .normal (.provisional 1600), o 2 .normal (.confirmed 2), o 3 .frost (.provisional 1500),
        o 4 .frost (.running 1 0 0), o 5 .normal (.provisional 1700),
        { o 6 .normal (.confirmed 3) with start := 7000, stop := 8000 }] } }

/-- The order of the walk, whom a limit of 40 ends, whom it passes over, and ORDERS SHED. -/
theorem witness_SheddingAndBumpingMakeRoom_walk :
    shedOrder crowded.orders.table = [5, 1, 6, 2, 3, 4]
    ∧ (shed 40 crowded).orders.table.map (·.tag) = [2, 3, 4, 6]
    ∧ (shed 40 crowded).comms.flags.getLsbD (flagIndex .ordersShed) = true
    ∧ shed 80 crowded = crowded
    ∧ (bump82 { order1 (.confirmed 4) with tag := 7, cls := .frost }
        { crowded with clock := { crowded.clock with drawLimit := 60 } }).orders.table.map (·.tag) = [1, 2, 3, 4, 6] := by
  decide

theorem witness_SheddingAndBumpingMakeRoom_law : OrderLaw crowded := by
  refine ⟨by decide, ?_, by decide⟩
  show List.Pairwise ordersApart [_, _, _, _, _, _]
  simp [ordersApart, order1]
  decide

/-- An order request of account 77. -/
def request (start rate : Nat) : OrderRequest := ⟨9, 77, .normal, start, 900, rate⟩

theorem witness_OrderIsRefused : parseOrder (be 1 9 ++ be 2 77 ++ be 1 0 ++ be 3 4600 ++ be 3 900 ++ be 2 30)
      = some (request 4600 30)
    ∧ refusalReason 0 (request 4599 30) part5 = some 8 ∧ refusalReason 0 (request 4600 101) part5 = some 7
    ∧ refusalReason 1 (request 4600 30) part5 = some 5
    ∧ refusalReason 0 { request 4600 30 with account := 78 } part5 = some 4
    ∧ refusalReason 0 (request 4600 30) State.reset = some 2 := by decide

/-- The same part with a turnout's order, an account or a limit changed, and what an ORDER on turnout 1 meets there. -/
theorem witness_OrderIsRefused_in_order :
    let account := fun a : AccountEntry => { part5 with
      tables := { part5.tables with accounts := part5.tables.accounts.set 0 a } }
    let holding := fun o : List OrderRec => { part5 with orders := { table := o } }
    let frost := { request 4600 30 with cls := .frost }
    let called := fun stop : Nat => { part5 with clock := { part5.clock with frost := some ⟨4600, stop⟩ } }
    [refusalReason 0 (request 4600 30) { part5 with supply := { part5.supply with status := .low } },
      refusalReason 0 (request 4600 30) (account { account77 with active := false }),
      refusalReason 0 (request 4600 30) (account { account77 with permitted := 2 }),
      refusalReason 0 (request 4600 0) part5,
      refusalReason 0 (request 605801 30) part5,
      refusalReason 0 (request 4101 30) (holding [{ order1 (.confirmed 1) with turnout := 0 }]),
      refusalReason 0 frost (called 5499), refusalReason 0 frost (called 5500),
      refusalReason 0 (request 4600 30) (account { account77 with allotment := 26 }),
      refusalReason 0 (request 4600 30) (account { account77 with allotment := 27 }),
      refusalReason 0 (request 4600 30) { part5 with clock := { part5.clock with drawLimit := 29 } },
      refusalReason 0 (request 4600 30) { part5 with tables := { part5.tables with reach := { reach5 with capacity := 39 } } },
      refusalReason 0 (request 4600 30) { part5 with tables := { part5.tables with reach := { reach5 with capacity := 40 } } }]
    = [some 3, some 4, some 6, some 7, some 8, some 8, some 10, none, some 11, none, some 12, some 13, none] := by decide

/-- Orders of another turnout that draw nothing. -/
def idle48 (n : Nat) : State :=
  { part5 with orders := { table := List.replicate n { order1 (.confirmed 1) with turnout := 1, rate := 0 } } }

theorem witness_OrderIsRefused_full : refusalReason 0 (request 4600 30) (idle48 48) = some 14
    ∧ refusalReason 0 (request 4600 30) (idle48 47) = none
    ∧ refusalReason 0 (request 4600 30) (withOrder (order1 (.confirmed 1)) []) = some 9 := by decide

/-- A RUNNING record whose end has passed has nothing still to run (log 43). -/
theorem test_toRun : toRun 7000 (order1 (.running 1 0 0)) = 0 ∧ toRun 5990 (order1 (.running 1 0 0)) = 200
    ∧ toRun 7000 (order1 (.confirmed 1)) = 20000 := by decide

theorem witness_OrderIsAdmitted : Runs part5 ∧ Assigned part5 ∧ part5.clock.status = .set
    ∧ part5.supply.status = .normal ∧ (getAt part5.tables.accounts 0).number = 77
    ∧ (∀ j, (getAt part5.tables.accounts j).number = 77 → j = 0) ∧ refusalReason 0 (request 4600 100) part5 = none
    ∧ part5.clock.seconds + part5.tables.reach.orderLead = 4600
    ∧ (let s := { part5 with clock := { part5.clock with frost := some ⟨4600, 5500⟩ } }
       refusalReason 0 { request 4600 30 with cls := .frost } s = none) := by
  refine ⟨by decide, ⟨by decide, by decide⟩, by decide, by decide, by decide, by decide, by decide, by decide, by decide⟩

theorem witness_NextTagAndCapacityQuestion : nextTag 255 [] = 1 ∧ nextTag 0 drawn.orders.table = 2
    ∧ fits 990 4000 5000 part5 = true ∧ fits 991 4000 5000 part5 = false := by decide

/-- A part with a PROVISIONAL order. -/
def provisional : State := withOrder (order1 (.provisional 1600)) []

theorem witness_AnswersAtOrigin : Runs provisional ∧ Assigned provisional
    ∧ findTag 1 provisional.orders.table = some (order1 (.provisional 1600))
    ∧ (out (exec (.confirmAtOrigin ⟨4, 0⟩ false (be 1 5 ++ be 1 1)) provisional)).orders.table
        = [order1 (.confirmed 1)]
    ∧ (out (exec (.refuseAtOrigin ⟨0, 0⟩ false (be 1 5 ++ be 1 1 ++ [3, 13])) provisional)).orders.table = []
    ∧ (out (exec (.confirmAtOrigin ⟨4, 0⟩ false (be 1 5 ++ be 1 2)) provisional)).comms.unmatched = 1 := by
  refine ⟨by decide, ⟨by decide, by decide⟩, by decide, by decide, by decide, by decide⟩

/-- A part whose confirmation counter stands at its top, with a PROVISIONAL record and a RUNNING one. -/
def topped : State :=
  { part5 with orders := {
      table := [order1 (.provisional 1600), { order1 (.running 65535 0 0) with tag := 2, turnout := 1 }]
      tagCounter := 2
      confCounter := 65535 } }

theorem witness_AnswersAtOrigin_renumbered : Runs topped ∧ topped.orders.confCounter = 65535
    ∧ OrderLaw topped ∧ findTag 1 topped.orders.table = some (order1 (.provisional 1600))
    ∧ (out (exec (.confirmAtOrigin ⟨4, 0⟩ false (be 1 5 ++ be 1 1)) topped)).orders.table
        = [order1 (.confirmed 2), { order1 (.running 1 0 0) with tag := 2, turnout := 1 }] := by
  refine ⟨by decide, rfl, ⟨by decide, ?_, by decide⟩, by decide, by decide⟩
  show List.Pairwise ordersApart [_, _]
  simp [ordersApart, order1]

/-- A part whose CONFIRMED order starts, with the clock at a second, the open volume and the gate given. -/
def starting (seconds volume : Nat) (g : GateRec) : State :=
  { withOrder (order1 (.confirmed 1)) [⟨.startReached, 1⟩] with
    clock := { part5.clock with seconds := seconds }
    gates := (Vector.replicate 16 {}).set 0 g
    metering := { counters := (Vector.replicate 64 {}).set 0 { openVol := volume } } }

theorem witness_StartIsTaken :
    (let t := out (exec .startReached (starting 5000 3980000 { ready := true }))
     t.orders.table = [order1 (.running 1 0 0)] ∧ (getAt t.gates 0).commanded = 200)
    ∧ (out (exec .startReached (starting 5000 3980001 { ready := true }))).orders.table = []
    ∧ (out (exec .startReached (starting 6000 0 { ready := true }))).orders.table = []
    ∧ (out (exec .startReached (starting 5000 0 { ready := false }))).orders.table = []
    ∧ (out (exec .startReached (starting 5000 0 { ready := true, state := .fault .stuck }))).orders.table = []
    ∧ findSlot part5.tables.accounts 77 = some 0 := by decide

theorem witness_StartIsTaken_fault : ∃ c, (getAt (withGate { state := .fault .stuck }).gates 0).state = .fault c :=
  ⟨.stuck, by decide⟩

theorem witness_OrdersEnd :
    (out (exec .holdDeadlineReached (withOrder (order1 (.provisional 1600)) [⟨.holdDeadline, 1⟩]))).orders.table = []
    ∧ (out (exec (.orderCancel 0 false (be 1 9 ++ be 2 77)) drawn)).orders.table = []
    ∧ (out (exec (.orderCancel 0 false (be 1 9 ++ be 2 78)) drawn)).orders.table = drawn.orders.table
    ∧ deliveredOf (order1 (.running 1 4294967295 0)) < 4294967296
    ∧ drawn.orders.table.Pairwise fun x y => x.tag < y.tag := by
  refine ⟨by decide, by decide, by decide, by decide, ?_⟩
  show List.Pairwise _ [_]
  simp

/-- An ORDER CANCEL against an empty table, and a malformed one. -/
theorem witness_OrdersEnd_none : Runs part5 ∧ Assigned part5 ∧ part5.orders.table = []
    ∧ (out (exec (.orderCancel 0 false (be 1 9 ++ be 2 77)) part5)).comms.d.queue.map (·.body) = [[9, 0, 2, 5, 16]]
    ∧ (out (exec (.orderCancel 0 false [9]) part5)).comms.d.queue.map (·.body) = [[9, 0, 2, 5, 1]] :=
  ⟨by decide, ⟨by decide, by decide⟩, rfl, by decide, by decide⟩

/-- The end of a RUNNING record by the state of its gate (R119), and the RELEASE of every cause but COMPLETED. -/
theorem witness_OrdersEnd_gates :
    let o := order1 (.running 1 0 0)
    let ends := fun st cause => endOrder cause o { withOrder o [] with
      gates := (Vector.replicate 16 {}).set 0 { state := st, commanded := 200 } }
    let kinds := fun s : State => (s.comms.d.queue.map (·.kind), s.comms.u.queue.map (·.kind))
    kinds (ends .closed .completed) = ([0x23], []) ∧ kinds (ends (.fault .stuck) .gateFault) = ([0x23], [0x54])
      ∧ kinds (ends .opened .completed) = ([0x31, 0x23], []) ∧ kinds (ends .moving .curtailed) = ([0x31, 0x23], [0x54])
      ∧ (getAt (ends .opened .completed).gates 0).runOut = some 77 ∧ (getAt (ends .closed .bumped).gates 0).runOut = none
      ∧ (endTags .cancelled [1, 2] (withOrder o [])).orders.table = [] := by decide

/-! ## Witnesses: carriage -/

/-- A DEMAND of reach 7, tag 2. -/
def demand7 (rate deadline : Nat) : DemandBody := ⟨7, 2, .normal, 4060, 5060, rate, deadline⟩

/-- What a DEMAND leaves in the list. -/
def demandList (d : DemandBody) (s : State) : List CarriageRec :=
  (out (exec (.demand ⟨7, 0⟩ ⟨0, 0⟩ false (demandBytes d)) s)).carriage.list

theorem witness_DemandPassesUp : Runs part5 ∧ Assigned part5
    ∧ demandList (demand7 990 1001) part5 = [{ passing (.tentative 1001) with rate := 990 }]
    ∧ demandList (demand7 991 1001) part5 = [] ∧ demandList (demand7 50 1000) part5 = []
    ∧ demandList (demand7 50 1001) (withPassing (passing .firm) []) = [passing .firm]
    ∧ demandList (demand7 50 1001) { part5 with clock := { status := .unset } } = [] := by
  refine ⟨by decide, ⟨by decide, by decide⟩, by decide, by decide, by decide, by decide, by decide⟩

theorem witness_AnswersPassDown :
    (out (exec (.confirmPassing ⟨0, 0⟩ ⟨7, 0⟩ false (be 1 7 ++ be 1 2))
      (withPassing (passing (.tentative 1001)) []))).carriage.list = [passing .firm]
    ∧ (out (exec (.refusePassing ⟨0, 0⟩ ⟨249, 18⟩ true (be 1 7 ++ be 1 2 ++ [3, 13]))
      (withPassing (passing (.tentative 1001)) []))).carriage.list = []
    ∧ (out (exec (.confirmPassing ⟨0, 0⟩ ⟨7, 0⟩ false (be 1 7 ++ be 1 2))
      (withPassing (passing .firm) []))).comms.unmatched = 1 := by decide

/-- The unmatched count and the queue lengths, D before U, of a carriage frame. -/
def passedOn (c : Instr) (s : State) : Nat × Nat × Nat :=
  let t := out (exec c s)
  (t.comms.unmatched, t.comms.d.queue.length, t.comms.u.queue.length)

/-- The clauses on carriage frames that are not well formed. -/
theorem witness_CarriageFramesNotWellFormed :
    [passedOn (.demand ⟨7, 0⟩ ⟨0, 0⟩ false (demandBytes (demand7 1001 1001))) part5,
      passedOn (.demand ⟨7, 0⟩ ⟨0, 0⟩ false (demandBytes { demand7 50 1001 with originReach := 5 })) part5,
      passedOn (.demand ⟨7, 0⟩ ⟨0, 0⟩ false (demandBytes { demand7 50 1001 with stop := 4059 })) part5,
      passedOn (.release ⟨7, 0⟩ ⟨0, 0⟩ false (be 1 250 ++ be 1 2 ++ be 3 1)) part5,
      passedOn (.confirmPassing ⟨0, 0⟩ ⟨7, 0⟩ false (be 1 5 ++ be 1 2)) part5,
      passedOn (.refusePassing ⟨0, 0⟩ ⟨7, 0⟩ false (be 1 7 ++ be 1 2)) part5]
    = [(1, 0, 1), (1, 0, 1), (1, 0, 1), (1, 0, 1), (1, 1, 0), (1, 1, 0)] := by decide

/-- What a RELEASE leaves in the list. -/
def releaseList (time : Nat) (s : State) : List CarriageRec :=
  (out (exec (.release ⟨7, 0⟩ ⟨0, 0⟩ false (be 1 7 ++ be 1 2 ++ be 3 time)) s)).carriage.list

theorem witness_ReleasePassesUp :
    releaseList 4061 (withPassing (passing .firm) []) = [{ passing .firm with stop := 4001 }]
    ∧ releaseList 4060 (withPassing (passing .firm) []) = []
    ∧ releaseList 4061 (withPassing (passing (.tentative 1001)) []) = []
    ∧ findCarriage 7 2 part5 = none := by decide

theorem witness_CarriageExpires :
    (out (exec .carriageHoldDeadlineReached
      (withPassing (passing (.tentative 900)) [⟨.holdDeadline, 7, 2⟩]))).carriage = {}
    ∧ (out (exec .windowEndReached (withPassing (passing .firm) [⟨.windowEnd, 7, 2⟩]))).carriage = {} := by decide

/-! ## Witnesses: gates, scan, metering -/

/-- The gate of turnout 1 after a command. -/
def gate1 (c : Instr) (g : GateRec) : GateRec := getAt (out (exec c (withGate g))).gates 0

theorem witness_GateTimersExpire :
    (gate1 (.gateReplyTimeout 0) { state := .moving, replyTimer := some 10 }).state = .fault .silent
    ∧ (gate1 (.gateTravelTimeout 0) { state := .moving, travelTimer := some 120 }).state = .fault .stuck
    ∧ Runs part5 ∧ ownReach part5 ≠ 0 := by decide

theorem witness_GateReportIsTaken :
    (gate1 (.gateReport 0 false (be 2 10 ++ [0, 1])) { state := .moving }).state = .closed
    ∧ (gate1 (.gateReport 0 false (be 2 11 ++ [0, 1])) { state := .moving }).state = .fault .stuck
    ∧ (gate1 (.gateReport 0 false (be 2 190 ++ [0, 1])) { state := .moving, commanded := 200 }).state = .opened
    ∧ (gate1 (.gateReport 0 false (be 2 1000 ++ [1, 1])) { state := .opened, commanded := 200 }).state = .moving
    ∧ (gate1 (.gateReport 0 false (be 2 10 ++ [0, 1])) { state := .fault .stuck }).state = .closed
    ∧ (gate1 (.gateReport 0 false (be 2 11 ++ [0, 1])) { state := .fault .stuck }).state = .fault .stuck
    ∧ (gate1 (.gateReport 0 false (be 2 5 ++ [1, 1])) { state := .fault .stuck }).state = .fault .stuck := by decide

theorem witness_GateReportIsTaken_stops :
    (gate1 (.gateReport 0 false (be 2 200 ++ [0, 0])) { state := .opened, commanded := 200, ready := true }).state
      = .fault .lockedOut
    ∧ (gate1 (.gateReport 0 false (be 2 200 ++ [0, 0])) { state := .opened, commanded := 200, ready := true }).ready
      = false
    ∧ (gate1 (.gateReport 0 false (be 2 0 ++ [0, 0])) { state := .moving }).state = .closed
    ∧ (out (exec (.gateReport 0 false (be 2 1001 ++ [0, 1])) part5)).comms.d.counts.refusedSource = 1
    ∧ (out (exec (.gateReport 0 false [0, 0, 0]) part5)).comms.d.counts.refusedSource = 1 := by decide

/-- A report that is not ready ends the RUNNING order once, LOCKED OUT. -/
theorem witness_GateReportIsTaken_ends :
    let t := out (exec (.gateReport 0 false (be 2 200 ++ [0, 0])) { withOrder (order1 (.running 1 0 0)) [] with
      gates := (Vector.replicate 16 {}).set 0 { state := .opened, commanded := 200, ready := true } })
    t.orders.table = [] ∧ (t.comms.d.queue.map fun f => (f.kind, f.body[3]?)) = [(0x31, none), (0x23, some 6)] := by decide

theorem witness_ScanTimersExpire :
    (getAt (out (exec .pollReplyTimeout (polling { misses := 1 }))).scan.stations 16).misses = 2
    ∧ (getAt (out (exec .pollReplyTimeout (polling { misses := 2 }))).scan.stations 16).state = .lost
    ∧ (getAt (out (exec .pollReplyTimeout (polling { misses := 3, state := .lost }))).scan.stations 16).misses = 3
    ∧ (out (exec .scanIntervalExpiry (polling {}))).scan.pending = true
    ∧ (out (exec .scanIntervalExpiry { polling {} with scan := { interval := some 60 } })).scan.outstanding = true := by
  decide

/-- A part whose last scan had stations, LOST since run second 990, and whose tables now name station 17 alone. -/
def relisted (list : List Station) : State :=
  { polling { state := .lost, ref := 990 } with
    tables := { part5.tables with turnouts := .replicate 16 {}, scan := { inflow := true } }
    scan := { stations := .replicate 18 { state := .lost, misses := 3, ref := 990, unmetered := 5 }, list := list } }

theorem witness_ScanTimersExpire_list :
    (let t := beginScan (relisted [0])
     t.scan.list = [16] ∧ getAt t.scan.stations 0 = { ref := 1000, unmetered := 15 }
       ∧ getAt t.scan.stations 16 = { ref := 1000, unmetered := 5 }
       ∧ (getAt t.scan.stations 1).state = .lost ∧ t.scan.pollTimer.isSome = true
       ∧ t.comms.d.queue.map (fun f => (f.dst, f.body)) = [(⟨5, 17⟩, [12, 1])])
    ∧ (beginScan { relisted [] with tables := { part5.tables with turnouts := .replicate 16 {} } }).scan.phase = .idle := by
  decide

/-- A part with a scan at its last station but one or at its last, and a scan of a part that is unassigned. -/
theorem witness_ScanTimersExpire_goes_on :
    let at' := fun (rest : List Station) (s : State) => { s with scan := { (polling {}).scan with
      phase := .scanning 10 2 0 rest } }
    (completePoll (at' [16] part5)).scan.phase = .scanning 10 2 16 []
    ∧ (completePoll (at' [16] part5)).comms.d.queue.map (·.body) = [[10, 2]]
    ∧ (completePoll (at' [] part5)).scan.phase = .idle
    ∧ (completePoll (at' [16] part0)).comms.u.queue.map (·.dst) = [⟨0, 17⟩]
    ∧ (completePoll (at' [16] part0)).comms.d.queue = [] := by decide

theorem witness_HeadReadingIsTaken :
    (getAt (out (exec (.headReading 16 false (be 2 4095 ++ be 1 12)) (polling {}))).scan.stations 16).state = .live
    ∧ (out (exec (.headReading 16 false (be 2 0 ++ be 1 12))
        (polling { state := .live, rate := 61, ref := 999, carry := 1 }))).metering.balance.inflow = 31
    ∧ (out (exec (.headReading 16 false (be 2 0 ++ be 1 12)) part5)).comms.d.counts.refusedSource = 1
    ∧ (∀ p, (curvePoints part5.tables.rating 2).getLast? = some p → 4095 * 2 ^ (16 - 12) ≤ p.head) := by
  refine ⟨by decide, by decide, by decide, ?_⟩
  intro p hp
  have : (curvePoints part5.tables.rating 2).getLast? = some ⟨65527, 0⟩ := by decide
  rw [this] at hp
  simp only [Option.some.injEq] at hp
  subst hp
  decide

/-- A part that scans station 1, with a curve whose last head is 5000. -/
def pollingTurnout (r : StationRec) : State :=
  { part5 with
    tables := { part5.tables with
      rating := ((Vector.replicate 8 half).set 0 ⟨⟨0, 0⟩, ⟨10, 0⟩, ⟨20, 0⟩, ⟨30, 4⟩, ⟨40, 5⟩, ⟨50, 6⟩⟩).set 1
        ⟨⟨60, 7⟩, ⟨70, 8⟩, ⟨80, 9⟩, ⟨90, 10⟩, ⟨100, 11⟩, ⟨5000, 30⟩⟩ }
    scan := { stations := (Vector.replicate 18 {}).set 0 r, list := [0], phase := .scanning 12 1 0 [],
              outstanding := true, pollTimer := some 800, interval := some 60 } }

/-- The flags and the last rate of station 1 after a reading of a count. -/
def readTurnout (body : List Byte) (r : StationRec) : Bool × Nat × Nat :=
  let t := out (exec (.headReading 0 false body) (pollingTurnout r))
  (t.comms.flags.getLsbD (flagIndex .offRating), (getAt t.scan.stations 0).rate, (getAt t.scan.stations 0).misses)

theorem witness_HeadReadingIsTaken_turnout :
    readTurnout (be 2 313 ++ be 1 12) {} = (true, 30, 0)
    ∧ readTurnout (be 2 2 ++ be 1 12) {} = (false, 0, 0)
    ∧ readTurnout (be 2 4096 ++ be 1 12) {} = (false, 0, 1)
    ∧ readTurnout (be 2 2 ++ be 1 11) { misses := 1 } = (false, 0, 2)
    ∧ (getAt (out (exec (.headReading 0 false (be 2 5 ++ be 1 12))
        (pollingTurnout { state := .live, rate := 10, ref := 990 }))).metering.meters 0).unordered = 95
    ∧ (getAt (out (exec (.headReading 0 false (be 2 5 ++ be 1 12))
        (pollingTurnout { state := .lost, misses := 3, ref := 990 }))).scan.stations 0).unmetered = 10 := by decide

/-- The commanded opening of turnout 1 after a rate of its flume. -/
def trimmed (commanded stamp measured : Nat) : Nat :=
  (getAt (takeReading 0 measured { withOrder (order1 (.running 1 0 0)) [] with
    gates := (Vector.replicate 16 {}).set 0 { state := .opened, commanded := commanded, ready := true, stamp := stamp } }).gates
    0).commanded

/-- Of the trim: the interval of 300 s, the tolerance of 5 per cent of 20 l/s, the two ends, the same opening. -/
theorem witness_HeadReadingIsTaken_trim : runningOn 0 (withOrder (order1 (.running 1 0 0)) []).orders.table
      = some (order1 (.running 1 0 0))
    ∧ [trimmed 300 700 10, trimmed 300 701 10, trimmed 300 700 19, trimmed 300 700 18, trimmed 300 700 0, trimmed 1 700 18,
        trimmed 1 700 100] = [600, 300, 300, 333, 1000, 1, 1] := by decide

/-- A part with a RUNNING order, its account's open volume at a value. -/
def crediting (volume : Nat) : State :=
  { withOrder (order1 (.running 1 0 0)) [] with
    metering := { counters := (Vector.replicate 64 {}).set 0 { openVol := volume } } }

theorem witness_IntervalIsCreditedToTheOrder :
    let s := withOrder (order1 (.running 1 0 0)) []
    runningOn 0 s.orders.table = some (order1 (.running 1 0 0)) ∧ findSlot s.tables.accounts 77 = some 0
      ∧ (getAt (creditInterval 0 10 s).1.metering.counters 0).openVol = 10
      ∧ (creditInterval 0 10 (crediting 3999989)).2 = none ∧ (creditInterval 0 10 (crediting 3999990)).2 = some [1]
      ∧ (handTurnoutInterval 0 10 20 (crediting 3999990)).orders.table = []
      ∧ (handTurnoutInterval 0 10 20 (crediting 3999990)).comms.flags.getLsbD (flagIndex .allotmentReached) = true := by
  decide

theorem test_creditRec : creditRec 5 7 (order1 (.running 1 2 3)) = order1 (.running 1 7 10)
    ∧ creditRec 5 7 (order1 (.confirmed 1)) = order1 (.confirmed 1) := by decide

theorem witness_IntervalIsCreditedToTheOrder_runOut :
    let s := withGate { runOut := some 77 }
    runningOn 0 s.orders.table = none ∧ (getAt s.gates 0).runOut = some 77
      ∧ (getAt (creditInterval 0 10 s).1.metering.counters 0).runOutVol = 10
      ∧ (getAt (creditInterval 0 10 s).1.metering.meters 0) = ⟨10, 0, 10, 0⟩
      ∧ (creditInterval 0 10 { s with metering := (counted 3999990).metering }).2 = some []
      ∧ (getAt (creditInterval 0 10 (withGate { runOut := some 78 })).1.metering.meters 0) = ⟨10, 0, 0, 10⟩
      ∧ (creditInterval 0 1 part5).1.comms.flags.getLsbD (flagIndex .unorderedFlow) = true
      ∧ (creditInterval 0 0 part5).1.comms.flags.getLsbD (flagIndex .unorderedFlow) = false := by decide

theorem witness_RatingCurveIsReadAlongItsLines :
    let r : Vector HalfCurve 8 :=
      ((Vector.replicate 8 half).set 0 ⟨⟨0, 0⟩, ⟨10, 7⟩, ⟨20, 7⟩, ⟨30, 9⟩, ⟨40, 10⟩, ⟨50, 11⟩⟩).set 1
        ⟨⟨60, 12⟩, ⟨70, 13⟩, ⟨80, 14⟩, ⟨90, 15⟩, ⟨100, 16⟩, ⟨110, 17⟩⟩
    curveOrdered (curvePoints r 0) = true ∧ (curvePoints r 0)[0]? = some ⟨0, 0⟩ ∧ (curvePoints r 0)[1]? = some ⟨10, 7⟩
      ∧ curveFlow 9 (curvePoints r 0) = 6 ∧ curveFlow 111 (curvePoints r 0) = 17 := by decide

/-! ## Witnesses: store and supply -/

/-- The REACH region as the operation programs it. -/
def region (mark : Bool) : Region ReachTable :=
  ⟨⟨1, 3⟩, reach5, crc16 (be 4 1 ++ be 2 3 ++ reachBytes reach5), mark⟩

theorem witness_StoreOperationEnds : Runs (storing none false) ∧ (storing none false).store.op = some (operation none)
    ∧ (out (exec (.storeOperationEnd true) (storing none false))).store.regions.reach = some (region true)
    ∧ (out (exec (.storeOperationEnd false) (storing (some 9) false))).store.regions.reach = some (region false)
    ∧ found reachBytes (some (region true)) = some (⟨1, 3⟩, reach5) ∧ found reachBytes (some (region false)) = none
    ∧ found reachBytes (some { region true with check := 0 }) = none := by decide

/-- The end of a STORE COMMIT behind which a snapshot waits, or a wipe. -/
theorem witness_StoreOperationEnds_waiting :
    let t := fun passed => out (exec (.storeOperationEnd passed) (storing (some 9) true))
    let w := fun passed => out (exec (.storeOperationEnd passed)
      { storing (some 9) false with store := { op := some (operation (some 9)), wipe := some .waiting } })
    (t true).store.op.map (·.header) = some ⟨1, 3⟩ ∧ (t true).comms.u.queue.map (·.body) = [[9, 0x74, 0, 1]]
      ∧ (t false).comms.u.queue.map (·.kind) = [0x7E, 0x7D] ∧ (t false).store.op.isSome = true
      ∧ (w true).store.wipe = some (.erasing .accountState) ∧ (w true).comms.u.queue.map (·.body) = [[9, 0x74, 0, 1]]
      ∧ (w false).store.wipe = some (.erasing .accountState) := by decide

/-- A part with an operation that serves a RESTART, and one in a wipe. -/
def serving : State := { part5 with store := { op := some { operation none with servesRestart := true } } }
def wiped (w : WipeStep) : State :=
  { part5 with store := { op := some ⟨⟨1, 0⟩, .alertEnables 0xFFFF, none, false⟩, wipe := some w } }

theorem witness_StoreOperationEnds_restart_and_wipe :
    Runs serving ∧ (out (exec (.storeOperationEnd true) serving)).loading.isSome = true
    ∧ Runs (wiped .waiting) ∧ (out (exec (.storeOperationEnd true) (wiped .waiting))).store.wipe
        = some (.erasing .accountState)
    ∧ (out (exec (.storeOperationEnd true) (wiped (.erasing .scan)))).store.wipe = some (.erasing .alertEnables)
    ∧ (out (exec (.storeOperationEnd true) (wiped (.erasing .alertEnables)))).store.wipe = some (.writing .accountState)
    ∧ (out (exec (.storeOperationEnd false) (wiped (.writing .scan)))).store.wipe = some (.writing .alertEnables)
    ∧ (out (exec (.storeOperationEnd false) (wiped (.writing .alertEnables)))).loading
        = some ⟨⟨.wipe, .factory, 0xFF⟩, true⟩ := by decide

/-- A snapshot that waits behind the one a RESTART waits for is dropped unbegun (log 44). -/
theorem witness_StoreOperationEnds_dropped :
    let t := out (exec (.storeOperationEnd true) { serving with store := { serving.store with waiting := true } })
    t.loading.isSome = true ∧ t.store.waiting = false ∧ t.store.op = none := by decide

/-- A write of the wipe, and a request for a snapshot of a wiping, an idle and a busy store. -/
theorem witness_StoreOperationEnds_begins :
    (wiped (.writing .scan)).store.nextSeq < 4294967295
    ∧ (beginWipeWrite .accounts (wiped (.erasing .alertEnables))).store.op.map (·.header) = some ⟨1, 0⟩
    ∧ (beginErase .scan (storing none true)).store.waiting = false
    ∧ requestSnapshot (wiped (.erasing .scan)) = wiped (.erasing .scan)
    ∧ (requestSnapshot part5).store.op.map (·.header) = some ⟨1, 3⟩
    ∧ (requestSnapshot (storing none false)).store.waiting = true
    ∧ (beginSnapshot { part5 with mgmt := { part5.mgmt with state := .restartPending } }).store.op.map (·.servesRestart) = some true := by
  decide

/-- A part with a supply status. -/
def supplied (st : SupplyStatus) : State := { part5 with supply := { part5.supply with status := st } }

theorem witness_SupplyPassages :
    (out (exec (.supplyLow 11199) part5)).supply.status = .low
    ∧ (out (exec (.supplyLow 11200) part5)).supply.status = .normal
    ∧ (out (exec (.supplyNormal 11501) (supplied .low))).supply.status = .normal
    ∧ (out (exec (.supplyNormal 11500) (supplied .low))).supply.status = .low
    ∧ (out (exec (.supplyBackup 9599) part5)).supply.status = .backup
    ∧ (out (exec (.supplyBackup 9599) (supplied .low))).supply.status = .backup
    ∧ (out (exec (.supplyLow 9599) part5)).supply.status = .backup
    ∧ (out (exec (.supplyLow 9599) part5)).comms.flags.getLsbD (flagIndex .supplyLow) = true
    ∧ (out (exec (.supplyBackup 9600) part5)).supply.status = .low := by decide

/-- A stopped part that holds its retention mark. -/
def retaining : State := { stopped with supply := { stopped.supply with level := 9000, retention := true } }

/-- The levels of a stopped part, and the restart that follows a fall to 5 V. -/
theorem witness_SupplyPassages_stopped :
    (out (exec (.workingMemoryLoss 6000) retaining)).supply.retention = false
    ∧ (out (exec (.supplyBackup 6001) retaining)).supply.retention = true
    ∧ (out (exec (.supplyBackup 5000) part5)).supply.retention = false
    ∧ (out (exec (.supplyRestart 12000) (out (exec (.supplyBackup 5000) part5)))).loading.map (·.record.kind)
        = some .powerOn
    ∧ (out (exec (.supplyRestart 12000) retaining)).loading.map (·.record.kind) = some .supplyRecovery := by decide

/-- A part that loads at a level. -/
def loadingAt (mv : Nat) : State := out (exec (.supplyRestart mv) stopped)

theorem witness_SupplyPassages_loading :
    (loadingAt 11199).supply.status = .low ∧ (loadingAt 11200).supply.status = .normal
    ∧ (out (exec (.supplyLow 11199) (loadingAt 12000))).supply.status = .low
    ∧ (out (exec (.supplyLow 11199) (loadingAt 12000))).comms.flags = 0
    ∧ (out (exec (.supplyNormal 11500) (loadingAt 11199))).supply.status = .low
    ∧ (out (exec (.supplyNormal 11501) (loadingAt 11199))).supply.status = .normal
    ∧ (out (exec (.supplyBackup 9599) (loadingAt 12000))).loading = none := by decide

/-- A tariff, staged, and a copy of ACCOUNT STATE with the lock set or clear. -/
def staged7 : Staged := ⟨.replicate 4 { rate1 := 5 }, 7⟩

def account9 (lock : Bool) (edition : Nat) : AccountImage :=
  { period := 9, counters := .replicate 64 { openVol := 5 }, meters := .replicate 16 {}, balance := {}
    unmetered := .replicate 18 4, bills := [], closes := [8], lock := lock, edition := edition, active := none }

/-- A store whose nine regions are complete, with headers of rising write sequence. -/
def written (lock : Bool) (edition : Nat) : Regions :=
  let image := fun (i : Image) (n : Nat) (g : Regions) => programRegion true ⟨n, 3⟩ i g
  image (.reach reach5) 1 <| image (.turnouts (.replicate 16 { enabled := true })) 2 <|
    image (.rating (tableOf factoryHalf)) 3 <| image (.accounts ((Vector.replicate 64 {}).set 0 account77)) 4 <|
    image (.tariff ⟨.replicate 4 { rate1 := 4 }, some staged7⟩) 5 <| image (.lineTiming { endGap := 900 }) 6 <|
    image (.scan { interval := 30 }) 7 <| image (.alertEnables 3) 8 <| image (.accountState (account9 lock edition)) 9 {}

theorem complete_found {α : Type} (bytes : α → List Byte) (h : Header) (x : α) :
    Complete bytes (programmed bytes true h x) h x := rfl

theorem witness_RestartLoadsTheStore : stopped.supply.status = .backup
    ∧ (out (exec (.supplyRestart 10201) stopped)).loading.isSome = true
    ∧ (out (exec (.supplyRestart 10200) stopped)).loading = none
    ∧ Incomplete reachBytes stopped.store.regions.reach ∧ (∀ h, ¬ HoldsHeader stopped.store.regions h)
    ∧ Incomplete reachBytes (some (region false)) ∧ Incomplete reachBytes (some { region true with check := 0 }) := by
  refine ⟨rfl, by decide, by decide, ?_, ?_, ?_, ?_⟩
  · intro h x e
    simp [Complete, stopped, State.reset] at e
  · rintro h ⟨i, e⟩
    cases i <;> simp [HoldsCopy, Complete, stopped, State.reset] at e
  · intro h x e
    simp [Complete, region] at e
  · rintro h x e
    simp only [Complete, Option.some.injEq, region, Region.mk.injEq] at e
    obtain ⟨rfl, rfl, e, -⟩ := e
    exact absurd e (by decide)

/-- Every clause about a complete region. -/
theorem witness_RestartLoadsTheStore_complete (lock : Bool) (edition : Nat) :
    let g := (written lock edition)
    HoldsCopy g ⟨1, 3⟩ (.reach reach5) ∧ HoldsCopy g ⟨2, 3⟩ (.turnouts (.replicate 16 { enabled := true }))
      ∧ HoldsCopy g ⟨3, 3⟩ (.rating (tableOf factoryHalf))
      ∧ HoldsCopy g ⟨4, 3⟩ (.accounts ((Vector.replicate 64 {}).set 0 account77))
      ∧ HoldsCopy g ⟨5, 3⟩ (.tariff ⟨.replicate 4 { rate1 := 4 }, some staged7⟩)
      ∧ HoldsCopy g ⟨6, 3⟩ (.lineTiming { endGap := 900 }) ∧ HoldsCopy g ⟨7, 3⟩ (.scan { interval := 30 })
      ∧ HoldsCopy g ⟨8, 3⟩ (.alertEnables 3) ∧ HoldsCopy g ⟨9, 3⟩ (.accountState (account9 lock edition)) :=
  ⟨rfl, rfl, rfl, rfl, rfl, rfl, rfl, rfl, rfl⟩

/-- The region written last, when ACCOUNT STATE is incomplete. -/
theorem witness_RestartLoadsTheStore_latest :
    let g := programRegion true ⟨1, 3⟩ (.reach reach5) {}
    let t := out (exec (.supplyRestart 12000) { stopped with store := { regions := g } })
    HoldsHeader g ⟨1, 3⟩ ∧ (∀ h, HoldsHeader g h → h = ⟨1, 3⟩) ∧ Incomplete accountImageBytes g.accountState
      ∧ t.clock.period = 3 ∧ t.store.nextSeq = 2 ∧ t.tables.reach = reach5
      ∧ t.loading.map (·.record) = some ⟨.powerOn, .void, 0xFE⟩ := by
  refine ⟨⟨.reach reach5, rfl⟩, ?_, ?_, by decide, by decide, by decide, by decide⟩
  · rintro h ⟨i, e⟩
    cases i <;> simp [HoldsCopy, Complete, programRegion, programmed] at e
    exact e.1.symm
  · intro h x e
    simp [Complete, programRegion] at e

/-- A commanded restart loads the same store; the restart of a wipe reads none of it. -/
theorem witness_RestartLoadsTheStore_kinds :
    let s := { part5 with store := { regions := programRegion true ⟨1, 3⟩ (.reach reach5) {}, nextSeq := 9, wipeFault := true } }
    (restartReading .commanded s).loading = some ⟨⟨.commanded, .void, 0xFE⟩, true⟩
    ∧ (restartReading .commanded s).tables.reach = reach5
    ∧ (restartWiped s).loading = some ⟨⟨.wipe, .factory, 0xFF⟩, true⟩ ∧ (restartWiped s).tables = {}
    ∧ (restartWiped s).store.nextSeq = 9 ∧ (restartWiped s).clock.period = 0 := by decide

/-- The staged tariff of R169: kept where its edition is the lock's, absent where it is not, and with the lock clear the
edition one higher. -/
theorem witness_RestartLoadsTheStore_tariff :
    let found := fun (lock : Bool) (edition : Nat) => loadBilling { findRegions {} with
      tariff := some (⟨5, 3⟩, ⟨.replicate 4 { rate1 := 4 }, some staged7⟩)
      accountState := some (⟨9, 3⟩, account9 lock edition) }
    (found true 7).staged = some staged7 ∧ (found true 8).staged = none ∧ (found false 3).edition = 8
      ∧ (found false 3).staged = none ∧ (found true 8).edition = 8 := by decide

theorem witness_LoadingEnds :
    (loadingAt 10201).loading = some ⟨⟨.powerOn, .void, 0xFF⟩, true⟩
    ∧ (out (exec .loadingComplete (loadingAt 11199))).supply.status = .low
    ∧ (out (exec .loadingComplete (loadingAt 11200))).supply.status = .normal
    ∧ (out (exec .loadingComplete (out (exec (.supplyNormal 11300) (loadingAt 11199))))).supply.status = .normal := by
  decide

/-- A part that ends loading with ten enabled turnouts, two frames in its D queue, and a level. -/
def loaded (level : Nat) (n : Nat) : State :=
  { part5 with
    comms := { d := { queue := List.replicate 2 (mkFrame ⟨6, 0⟩ ⟨4, 0⟩ 0x53 [] false) } }
    tables := { part5.tables with
      reach := { reach5 with number := n }
      turnouts := tableOf fun t => { enabled := decide (t.val < 10) } }
    supply := { part5.supply with level := level, relayClosed := true }
    loading := some ⟨⟨.powerOn, .void, 0xFF⟩, false⟩ }

/-- Six GATE SETs are placed, four turnouts wait, and the first scan begins; an unassigned part passes them over. -/
theorem witness_LoadingEnds_handed :
    let t := out (exec .loadingComplete (loaded 12000 5))
    let x := out (exec .loadingComplete (loaded 11199 0))
    t.gateWaiting = [6, 7, 8, 9] ∧ t.comms.d.queue.length = 8 ∧ (getAt t.gates 5).state = .moving
      ∧ (getAt t.gates 6).state = .closed ∧ t.scan.list.length = 10 ∧ t.scan.interval.isSome = true
      ∧ t.supply.status = .normal ∧ t.store.op = none
      ∧ x.gateWaiting = [] ∧ x.comms.d.queue.length = 2 ∧ x.supply.status = .low ∧ x.store.op.isSome = true
      ∧ x.comms.flags.getLsbD (flagIndex .supplyLow) = true := by decide

theorem witness_LoadingEnds_waiting :
    (getAt (placeWaiting { part5 with gateWaiting := [3, 4] }).gates 3).state = .moving
      ∧ (placeWaiting { part5 with gateWaiting := [3, 4] }).gateWaiting = [4]
      ∧ (placeWaiting { part0 with gateWaiting := [3, 4] }).gates = part0.gates ∧ placeWaiting part5 = part5 := by decide

theorem witness_ResetIsTheFirstPowerOn : stopped.supply.status = .backup ∧ stopped.supply.retention = false
    ∧ stopped.store.regions = {} ∧ stopped.pending = [] ∧ stopped.free = 0 := by decide

/-! ## Witnesses: laws -/

/-- A queue with one tick. -/
def ticking (s : State) : State := { s with pending := [.tick] }

/-- Of OrderLawIsKept, TurnoutLawIsKept and CarriageLawIsKept. -/
theorem witness_TurnoutLaw : OrderLaw (ticking drawn) ∧ TurnoutLaw (ticking drawn) ∧ CarriageLaw (ticking drawn)
    ∧ ∃ t, step (ticking drawn) = .next t := by
  refine ⟨order_law (by decide) _, ⟨?_, ?_, ?_⟩, ⟨by decide, ?_, ?_⟩, ⟨_, rfl⟩⟩
  · decide
  · have h : ∀ t, (getAt (ticking drawn).gates t).commanded = 0 := by decide
    exact fun t _ => h t
  · decide
  · show List.Pairwise _ []
    exact List.Pairwise.nil
  · decide

/-- Of RelayAndClockLawsAreKept. -/
theorem witness_RelayAndClockLaws : RelayLaw (ticking part5) ∧ ClockLaw (ticking part5) ∧ RelayLaw stopped := by
  refine ⟨⟨by decide, by decide⟩, ⟨by decide, by decide, by decide⟩, ⟨by decide, by decide⟩⟩

/-- Of QueueLawIsKept and MeterLawIsKept. -/
theorem witness_QueueAndMeterLaws : QueueLaw (ticking part5) ∧ MeterLaw (ticking part5) := by
  refine ⟨?_, ?_, ?_, ?_⟩
  · intro p
    cases p <;> exact ⟨⟨by decide, List.Pairwise.nil⟩, by decide⟩
  · intro t
    revert t
    unfold meterOk
    decide
  · intro r hr
    simp [ticking, part5, State.reset] at hr
  · intro op a ha
    simp [ticking, part5, State.reset] at ha

end Sys2Proof.Tests
end

/-! PROOFS. Transmit queues: a frame joins, is dropped, or displaces another (O10). -/

namespace Sys2Proof.Machine

open Sys2Proof.Safety

/-! ## Port units in one state -/

/-- Two changes of a port unit agree when they agree on the unit that stands there. -/
theorem mapUnit_congr {p : Port} {f g : PortUnit → PortUnit} {s : State} (h : f (unitAt p s) = g (unitAt p s)) :
    mapUnit p f s = mapUnit p g s :=
  congrArg (fun x => { s with comms := setPort p x s.comms }) h

/-! ## A full transmit queue (R22) -/

theorem enqueue_full_unmarked {f : Frame} {q : List Frame} (hl : 8 ≤ q.length) (hf : f.marked = false) :
    enqueue f q = (q, true) := by
  have hl : ¬ q.length < queuePlaces := Nat.not_lt.2 hl
  simp [enqueue, hl, hf]

theorem enqueue_full_all_marked {f : Frame} {q : List Frame} (hl : 8 ≤ q.length) (hq : ∀ g ∈ q, g.marked = true) :
    enqueue f q = (q, true) := by
  have hl : ¬ q.length < queuePlaces := Nat.not_lt.2 hl
  have hu : (q.any fun g => !g.marked) = false := by simpa using hq
  simp [enqueue, hl, hu]

/-- A marked frame displaces the newest unmarked frame of a full queue, which is the last one. -/
theorem enqueue_full_displaces {f last : Frame} {ms vs : List Frame} (hl : 8 ≤ (ms ++ (vs ++ [last])).length)
    (hm : ∀ g ∈ ms, g.marked = true) (hu : ∀ g ∈ vs ++ [last], g.marked = false) (hf : f.marked = true) :
    enqueue f (ms ++ (vs ++ [last])) = (ms ++ f :: vs, true) := by
  have hlast : last.marked = false := hu last (by simp)
  have hl : ¬ (ms ++ (vs ++ [last])).length < queuePlaces := Nat.not_lt.2 hl
  have hjoin : joinQueue f (ms ++ vs) = ms ++ f :: vs := by
    rw [joinQueue_split hm fun g hg => hu g (by simp [hg]), if_pos hf]
  rw [enqueue, if_neg hl, if_pos (by simp [hf, hlast]), dropNewestUnmarked_snoc hlast, hjoin]

/-- Where a frame's arrival costs a frame, the drop is counted and raises QUEUE DROP (R22, R28, R29). -/
theorem place_drop {p : Port} {f : Frame} {q : List Frame} {s : State}
    (h : enqueue f (unitAt p s).queue = (q, true)) :
    place p f s = raise .queueDrop (count p (fun c => { c with queueDrops := min 65535 (c.queueDrops + 1) })
      (mapUnit p (fun x => { x with queue := q }) s)) := by
  have he : enqueue f (portOf p s.comms).queue = (q, true) := h
  have hw : wouldDrop f (portOf p s.comms) = true := by simp [wouldDrop, he]
  have hq : enqueueAt p f s.comms = countAt p (fun c => { c with queueDrops := min 65535 (c.queueDrops + 1) })
      (setPort p { portOf p s.comms with queue := q } s.comms) := by
    simp [enqueueAt, countAt, portEnqueue, withCounts, he, bump, satAdd]
  show { s with comms := placeIn (alertContext s) p f s.comms } = _
  rw [placeIn, if_pos hw, raiseDrop_eq_raiseIn, hq]
  rfl

/-- Where a queue in two classes has room, the frame stands behind the last frame of its class (R21). -/
theorem place_room_split {p : Port} {f : Frame} {s : State} {ms us : List Frame} (hq : (unitAt p s).queue = ms ++ us)
    (hm : ∀ g ∈ ms, g.marked = true) (hu : ∀ g ∈ us, g.marked = false) (hl : (ms ++ us).length < 8) :
    place p f s = mapUnit p (fun x => { x with queue := if f.marked then ms ++ f :: us else ms ++ us ++ [f] }) s := by
  rw [place_room (hq ▸ hl), ← joinQueue_split hm hu]
  exact mapUnit_congr (by simp only [hq])

/-- Settles O10: a queue with room by the place of the frame's class, a full one by the three outcomes of `enqueue`. -/
theorem frameJoinsOrDrops : Obligations.FrameJoinsOrDrops := by
  intro p f s ms us hq hm hu
  refine ⟨fun hl hf => ?_, fun hl hf => ?_, fun hl hf => ?_, ?_, ?_⟩
  · rw [place_room_split hq hm hu hl, if_pos hf]
  · rw [place_room_split hq hm hu hl, if_neg (by simp [hf])]
  · exact place_drop (by rw [hq, enqueue_full_unmarked hl hf])
  · rintro vs last rfl hl hf
    exact place_drop (by rw [hq, enqueue_full_displaces hl hm hu hf])
  · rintro rfl hl -
    rw [List.append_nil] at hq
    exact place_drop (by rw [hq, enqueue_full_all_marked hl hm])

end Sys2Proof.Machine

/-! PROOFS. The receiver of a port: symbols, end gaps, acceptance and holding (O5, O6). -/

namespace Sys2Proof.Machine

open Sys2Proof.Safety

/-! ## The receiver and the symbols (R5, R6, R7, R9) -/

theorem receive_idle_of_ne_lead {y : Symbol} (h : y ≠ .lead) : receive .idle y = (.discard, some .symbol) := by
  cases y with
  | lead => exact absurd rfl h
  | mark | one | zero | unclassified => rfl

theorem receive_frame_bit (bytes : List Byte) (bits : List Bool) (mark b : Bool) :
    receive (.frame bytes bits mark) (if b then .one else .zero) = takeBit bytes bits mark b := by
  cases b <;> rfl

/-- A MARK is taken directly after the LEAD, once (R6). -/
theorem receive_frame_first_mark : receive (.frame [] [] false) .mark = (.frame [] [] true, none) := rfl

theorem receive_frame_late_mark {bytes : List Byte} {bits : List Bool} {mark : Bool}
    (h : ¬ (bytes = [] ∧ bits = [] ∧ mark = false)) :
    receive (.frame bytes bits mark) .mark = (.discard, some .symbol) := by
  have hlate : ¬ (bytes.isEmpty && bits.isEmpty && !mark) = true := by
    simpa [and_assoc] using h
  rw [receive, if_neg hlate]

theorem takeBit_partial {bytes : List Byte} {bits : List Bool} (mark b : Bool) (h : bits.length < 7) :
    takeBit bytes bits mark b = (.frame bytes (bits ++ [b]) mark, none) := by
  rw [takeBit, if_pos h]

theorem takeBit_eighth {bytes : List Byte} {bits : List Bool} (mark b : Bool) (h : bits.length = 7)
    (hroom : bytes.length < 44) :
    takeBit bytes bits mark b = (.frame (bytes ++ [byteOfBits (bits ++ [b])]) [] mark, none) := by
  rw [takeBit, if_neg (by omega), if_pos (show bytes.length < frameTop from hroom)]

theorem takeBit_overlong {bytes : List Byte} {bits : List Bool} (mark b : Bool) (h : bits.length = 7)
    (hfull : 44 ≤ bytes.length) : takeBit bytes bits mark b = (.discard, some .framing) := by
  rw [takeBit, if_neg (by omega), if_neg (show ¬ bytes.length < frameTop from Nat.not_lt.2 hfull)]

theorem countError_framing (p : Port) (s : State) : countError p .framing s = framingError p s := rfl

/-! ## The inactive edge that ends a pulse (R2, R3) -/

/-- The pulse's symbol is given to the receiver of a port whose quiet time has started. -/
theorem exec_inactiveEdge {p : Port} {s : State} (w : Nat) (h : PulseEnds p s) :
    exec (.inactiveEdge p w) s = .next (giveSymbol p (classify s.tables.timing w)
      (mapUnit p (fun x => { x with counter := 0, active := false, gapRaised := false }) s)) := by
  obtain ⟨hrun, hactive, hflight, hcounter⟩ := h
  have hidle : transmitting (unitAt p s) = false := by simp [transmitting, hflight]
  have hpulse : ((unitAt p s).active && decide ((unitAt p s).counter < counterTop)) = true := by
    simp [hactive, counterTop, hcounter]
  show Host.Outcome.next (whileRunning (inactiveEdge p w) s) = _
  rw [whileRunning_runs hrun, inactiveEdge]
  simp [hidle, hpulse]

theorem exec_inactiveEdge_taken {p : Port} {w : Nat} {s : State} {r : Receiver} (h : PulseEnds p s)
    (hr : receive (unitAt p s).receiver (classify s.tables.timing w) = (r, none)) :
    exec (.inactiveEdge p w) s = .next (afterPulse r p s) := by
  rw [exec_inactiveEdge w h]
  simp [giveSymbol, hr, afterPulse]

theorem exec_inactiveEdge_error {p : Port} {w : Nat} {s : State} {r : Receiver} {e : ReceiverError}
    (h : PulseEnds p s) (hr : receive (unitAt p s).receiver (classify s.tables.timing w) = (r, some e)) :
    exec (.inactiveEdge p w) s = .next (countError p e (afterPulse r p s)) := by
  rw [exec_inactiveEdge w h]
  simp [giveSymbol, hr, afterPulse]

/-! ## The end gap (R4, R5, R8, R9) -/

theorem exec_endGap {p : Port} {s : State} (h : GapComes p s) :
    exec (.endGap p) s = .next (endGapEvent p
      (mapUnit p (fun x => { x with counter := max x.counter s.tables.timing.endGap }) s)) := by
  obtain ⟨hrun, hactive, hflight, hraised, hgap⟩ := h
  have hquiet : isQuiet (unitAt p s) = true := by simp [isQuiet, transmitting, hactive, hflight]
  have htop : min s.tables.timing.endGap counterTop = s.tables.timing.endGap :=
    Nat.min_eq_left (hgap.trans (by decide))
  show Host.Outcome.next (whileRunning (endGap p) s) = _
  rw [whileRunning_runs hrun, endGap, if_pos hquiet, quietReaches, htop]
  simp only [hraised, Bool.not_false, Bool.true_and, le_max_right, decide_true, if_true]
  exact congrArg (fun t => Host.Outcome.next (endGapEvent p t)) (mapUnit_congr rfl)

/-- Outside a frame an end gap leaves the receiver in IDLE and does nothing else (R5, R9). -/
theorem exec_endGap_no_frame {p : Port} {s : State} (h : GapComes p s)
    (hr : (unitAt p s).receiver = .idle ∨ (unitAt p s).receiver = .discard) :
    exec (.endGap p) s = .next (afterGap p s) := by
  rw [exec_endGap h]
  obtain hr | hr := hr <;> simp [endGapEvent, hr, afterGap]

/-- An end gap closes the frame: whole bytes are offered, a byte in progress is a framing error (R8). -/
theorem exec_endGap_frame {p : Port} {s : State} {bytes : List Byte} {bits : List Bool} {mark : Bool}
    (h : GapComes p s) (hr : (unitAt p s).receiver = .frame bytes bits mark) :
    exec (.endGap p) s = .next (if bits.isEmpty then offerFrame p bytes mark (afterGap p s)
      else framingError p (afterGap p s)) := by
  rw [exec_endGap h]
  simp [endGapEvent, hr, afterGap, countError_framing]

/-- Settles O5, by the receiver's state and the symbol that the pulse's width gives. -/
theorem receiverTakesSymbols : Obligations.ReceiverTakesSymbols := by
  refine ⟨fun p s hidle => ⟨fun w hp hw => ?_, fun w hp hw => ?_, fun hg => ?_⟩,
    fun p w s bytes bits mark hp hframe _ => ⟨fun b hw => ?_, fun hw => ⟨?_, fun hlate => ?_⟩, fun hw => ?_⟩⟩
  · exact exec_inactiveEdge_taken hp (by rw [hidle, hw]; rfl)
  · exact exec_inactiveEdge_error hp (by rw [hidle, receive_idle_of_ne_lead hw])
  · exact exec_endGap_no_frame hg (.inl hidle)
  · have hbit : receive (unitAt p s).receiver (classify s.tables.timing w) = takeBit bytes bits mark b := by
      rw [hframe, hw, receive_frame_bit]
    refine ⟨fun hshort => ?_, fun hlast hroom => ?_, fun hlast hfull => ?_⟩
    · exact exec_inactiveEdge_taken hp (hbit.trans (takeBit_partial mark b hshort))
    · exact exec_inactiveEdge_taken hp (hbit.trans (takeBit_eighth mark b hlast hroom))
    · exact exec_inactiveEdge_error hp (hbit.trans (takeBit_overlong mark b hlast hfull))
  · rintro ⟨rfl, rfl, rfl⟩
    exact exec_inactiveEdge_taken hp (by rw [hframe, hw, receive_frame_first_mark])
  · exact exec_inactiveEdge_error hp (by rw [hframe, hw, receive_frame_late_mark hlate])
  · have herror : receive (.frame bytes bits mark) (classify s.tables.timing w) = (.discard, some .symbol) := by
      obtain hw | hw := hw <;> rw [hw] <;> rfl
    exact exec_inactiveEdge_error hp (hframe ▸ herror)

/-! ## Acceptance (R11) -/

/-- The header bytes give the header's fields, each in one byte (section 1.3). -/
theorem field_headerBytes {dst src : Addr} {kind : Nat} {body bytes rest : List Byte}
    (h : FrameFits dst src kind body) (hb : bytes = headerBytes dst src kind body.length ++ rest) :
    field bytes 0 1 = dst.reach ∧ field bytes 1 1 = dst.station ∧ field bytes 2 1 = src.reach
      ∧ field bytes 3 1 = src.station ∧ field bytes 4 1 = kind ∧ field bytes 5 1 = body.length := by
  obtain ⟨hdr, hds, hsr, hss, hk, hbody⟩ := h
  have hlen : body.length < 256 := by omega
  simp [hb, headerBytes, be_one, Nat.mod_eq_of_lt, hdr, hds, hsr, hss, hk, hlen]

/-- The bytes before the last two. -/
theorem take_before_check {bytes check : List Byte} (hc : check.length = 2) :
    (bytes ++ check).take ((bytes ++ check).length - 2) = bytes :=
  List.take_left' (by simp [hc])

/-- The number that the last two bytes spell. -/
theorem field_check {bytes : List Byte} {check : Nat} (hc : check < 65536) :
    field (bytes ++ be 2 check) ((bytes ++ be 2 check).length - 2) 2 = check := by
  have hsize : (bytes ++ be 2 check).length - 2 = bytes.length := by simp
  rw [hsize, field_append_right le_rfl, Nat.sub_self, field_be hc]

/-- A frame laid out as line bytes is accepted and read back with every field as it was (R11). -/
theorem acceptFrame_frameBytes {dst src : Addr} {kind : Nat} {body : List Byte} (mark : Bool)
    (h : FrameFits dst src kind body) :
    acceptFrame (frameBytes (mkFrame dst src kind body mark)) mark = some (mkFrame dst src kind body mark) := by
  have ⟨_, _, _, _, _, hbody⟩ := h
  generalize hb : frameBytes (mkFrame dst src kind body mark) = bytes
  have hbytes : bytes = headerBytes dst src kind body.length ++ body
      ++ be 2 (crc16 (headerBytes dst src kind body.length ++ body)).toNat := by
    simp [← hb, frameBytes, mkFrame]
  have hsize : bytes.length = body.length + 8 := by rw [← hb, frameBytes_length]; rfl
  have hbefore : bytes.take (bytes.length - 2) = headerBytes dst src kind body.length ++ body := by
    rw [hbytes, take_before_check (be_length _ _)]
  have hcheck : field bytes (bytes.length - 2) 2 = (crc16 (headerBytes dst src kind body.length ++ body)).toNat := by
    rw [hbytes, field_check (crc16 _).isLt]
  rw [List.append_assoc] at hbytes
  have hread : (bytes.drop 6).take body.length = body := by
    rw [hbytes, List.drop_left' (headerBytes_length ..), List.take_left' rfl]
  obtain ⟨hdr, hds, hsr, hss, hk, hlen⟩ := field_headerBytes h hbytes
  simp only [acceptFrame, hlen, hread, hbefore, hcheck, hdr, hds, hsr, hss, hk]
  rw [if_neg (by omega), if_neg (by omega), if_neg (by simp)]
  rfl

/-- A frame that fails one of the three tests of acceptance is not accepted (R11). -/
theorem acceptFrame_rejects {bytes : List Byte} (mark : Bool)
    (h : bytes.length < 8 ∨ 44 < bytes.length ∨ 36 < field bytes 5 1 ∨ bytes.length ≠ field bytes 5 1 + 8
      ∨ (crc16 (bytes.take (bytes.length - 2))).toNat ≠ field bytes (bytes.length - 2) 2) :
    acceptFrame bytes mark = none := by
  unfold acceptFrame
  dsimp only
  split
  · rfl
  next hsize =>
    split
    · rfl
    next hlen =>
      rw [if_pos]
      tauto

/-! ## The receive holding (R13) -/

theorem offerFrame_held {p : Port} {bytes : List Byte} {mark : Bool} {f : Frame} {s : State}
    (hf : acceptFrame bytes mark = some f) (hroom : (unitAt p s).holding.length < 2) :
    offerFrame p bytes mark s = mapUnit p (fun x => { x with holding := x.holding ++ [f] }) s := by
  simp [offerFrame, hf, holdingPlaces, hroom]

theorem offerFrame_overrun {p : Port} {bytes : List Byte} {mark : Bool} {f : Frame} {s : State}
    (hf : acceptFrame bytes mark = some f) (hfull : 2 ≤ (unitAt p s).holding.length) :
    offerFrame p bytes mark s =
      raise .lineFault (count p (fun c => { c with overruns := min 65535 (c.overruns + 1) }) s) := by
  simp [offerFrame, hf, holdingPlaces, Nat.not_lt.2 hfull, bump, satAdd]

theorem offerFrame_rejected {p : Port} {bytes : List Byte} {mark : Bool} {s : State}
    (hf : acceptFrame bytes mark = none) :
    offerFrame p bytes mark s =
      raise .lineFault (count p (fun c => { c with checkErrors := min 65535 (c.checkErrors + 1) }) s) := by
  simp [offerFrame, hf, bump, satAdd]

@[simp] theorem afterGap_holding (p : Port) (s : State) :
    (unitAt p (afterGap p s)).holding = (unitAt p s).holding := by
  simp [afterGap]

/-! ## DISCARD (R9) -/

theorem exec_captureSaturation_discard {p : Port} {s : State} (h : PulseEnds p s)
    (hr : (unitAt p s).receiver = .discard) :
    exec (.captureSaturation p) s = .next (mapUnit p (fun x => { x with counter := 65535 }) s) := by
  obtain ⟨hrun, hactive, hflight, hcounter⟩ := h
  have hpulse : ((unitAt p s).active && !transmitting (unitAt p s)
      && decide ((unitAt p s).counter < counterTop)) = true := by
    simp [hactive, transmitting, hflight, counterTop, hcounter]
  show Host.Outcome.next (whileRunning (captureSaturation p) s) = _
  rw [whileRunning_runs hrun, captureSaturation, if_pos hpulse]
  simp only [giveSymbol, unitAt_mapUnit_self, hr, receive, mapUnit_mapUnit]
  exact congrArg _ (mapUnit_congr (by simp [counterTop, ← hr]))

/-- Settles O6: at an end gap by the receiver's state and the acceptance of its bytes; in DISCARD by R9. -/
theorem endGapClosesTheFrame : Obligations.EndGapClosesTheFrame := by
  refine ⟨fun p s hg => ⟨fun bytes bits mark hframe => ?_, fun hdiscard => exec_endGap_no_frame hg (.inr hdiscard)⟩,
    fun p s hp hdiscard => ⟨fun w => ?_, exec_captureSaturation_discard hp hdiscard⟩⟩
  · rw [exec_endGap_frame hg hframe]
    refine ⟨fun hpartial => ?_, ?_, ?_⟩
    · rw [if_neg (by simpa using hpartial)]
    · rintro dst src kind body rfl hfits rfl
      have haccept := acceptFrame_frameBytes mark hfits
      exact ⟨fun hroom => congrArg _ (offerFrame_held haccept (by simpa using hroom)),
        fun hfull => congrArg _ (offerFrame_overrun haccept (by simpa using hfull))⟩
    · rintro rfl hreject
      exact congrArg _ (offerFrame_rejected (acceptFrame_rejects mark hreject))
  · exact exec_inactiveEdge_taken hp (by rw [hdiscard, receive])

end Sys2Proof.Machine

/-! PROOFS. The router at the D port and of an unassigned part (O14). -/

namespace Sys2Proof.Machine

open Sys2Proof.Safety

/-! ## Station numbers -/

theorem turnoutOf_eq_none_iff {n : Nat} : turnoutOf n = none ↔ ¬ (1 ≤ n ∧ n ≤ 16) := by
  unfold turnoutOf
  split_ifs <;> simp <;> omega

theorem stationOf_eq_none_iff {n : Nat} : stationOf n = none ↔ ¬ (1 ≤ n ∧ n ≤ 18) := by
  unfold stationOf
  split_ifs <;> simp <;> omega

/-! ## Work on a frame by the part's assignment and the port -/

theorem work_down {s : State} (h : Assigned s) (f : Frame) : work .d f s = routeDown f s :=
  if_neg (assigned_ne_zero h)

theorem work_unassigned {s : State} (h : ownReach s = 0) (p : Port) (f : Frame) :
    work p f s = routeUnassigned p f s :=
  if_pos h

theorem routeDown_misrouted {f : Frame} {s : State} (h : ownReach s < f.dst.reach ∨ 19 ≤ f.dst.station) :
    routeDown f s = countMisrouted .d s := by
  rw [routeDown, if_pos h]

theorem routeDown_own_reach {f : Frame} {s : State} (hr : f.dst.reach = ownReach s) (hs : f.dst.station < 19) :
    routeDown f s = if f.dst.station = 0 then deliverDown f s else countMisrouted .d s := by
  rw [routeDown, if_neg (by omega), if_pos hr]

theorem routeDown_climbs {f : Frame} {s : State} (hr : f.dst.reach < ownReach s) (hs : f.dst.station < 19) :
    routeDown f s = climb f s := by
  rw [routeDown, if_neg (by omega), if_neg (by omega)]

theorem climb_demand {f : Frame} {s : State} (h : f.kind = 0x51) :
    climb f s = match passDemand f s with | (t, some g) => forward .u g t | (t, none) => t := by
  rw [climb, if_pos h, climbDemand]
  obtain ⟨t, _ | g⟩ := passDemand f s <;> rfl

theorem climb_release {f : Frame} {s : State} (h : f.kind = 0x54) :
    climb f s = forward .u (passRelease f s).2 (passRelease f s).1 := by
  rw [climb, if_neg (by simp [h]), if_pos h, climbRelease]

theorem climb_other {f : Frame} {s : State} (h1 : f.kind ≠ 0x51) (h2 : f.kind ≠ 0x54) :
    climb f s = forward .u f s := by
  rw [climb, if_neg h1, if_neg h2]

/-! ## Who takes a frame consumed at the D port (R18) -/

theorem deliverDown_turnout {f : Frame} {s : State} {t : Turnout} (hsrc : f.src = ⟨ownReach s, t.val + 1⟩)
    (hk : f.kind ≠ 0x42) : deliverDown f s = deliverTurnout t f s := by
  simp [deliverDown, hsrc, hk, turnoutOf_succ]

theorem deliverDown_headReading {f : Frame} {s : State} {x : Station} (hsrc : f.src = ⟨ownReach s, x.val + 1⟩)
    (hk : f.kind = 0x42) : deliverDown f s = takeHeadReading x f.body s := by
  simp [deliverDown, hsrc, hk, stationOf_succ]

theorem deliverTurnout_other {f : Frame} {s : State} (t : Turnout) (hk : f.kind ∉ [0x21, 0x22, 0x32]) :
    deliverTurnout t f s = countRefusedSource .d s := by
  simp only [List.mem_cons, List.not_mem_nil, or_false, not_or] at hk
  obtain ⟨horder, hcancel, hreport⟩ := hk
  rw [deliverTurnout, if_neg horder, if_neg hcancel, if_neg hreport]

/-- A frame that is neither of a turnout station's three kinds nor a HEAD READING of a flume station of the own reach. -/
theorem deliverDown_refused {f : Frame} {s : State}
    (h : ¬ (f.src.reach = ownReach s ∧ 1 ≤ f.src.station
      ∧ ((f.src.station ≤ 16 ∧ f.kind ∈ [0x21, 0x22, 0x32]) ∨ (f.src.station ≤ 18 ∧ f.kind = 0x42)))) :
    deliverDown f s = countRefusedSource .d s := by
  unfold deliverDown
  split
  · rfl
  next hreach =>
    split
    next hhead =>
      have hnone : stationOf f.src.station = none := stationOf_eq_none_iff.2 fun hst =>
        h ⟨not_not.1 hreach, hst.1, .inr ⟨hst.2, hhead⟩⟩
      rw [hnone]
    next hhead =>
      by_cases hst : 1 ≤ f.src.station ∧ f.src.station ≤ 16
      · have hk : f.kind ∉ [0x21, 0x22, 0x32] := fun hk => h ⟨not_not.1 hreach, hst.1, .inl ⟨hst.2, hk⟩⟩
        split
        · exact deliverTurnout_other _ hk
        · rfl
      · rw [turnoutOf_eq_none_iff.2 hst]

/-! ## An unassigned part (R17) -/

theorem isRequest_iff {k : Nat} :
    isRequest k = true ↔ k ∈ [0x71, 0x72, 0x74, 0x75, 0x77, 0x78, 0x7A, 0x7C] :=
  List.contains_iff_mem

/-- Settles O14, by R16's cases of the destination, R18's takers and R17's two ports. -/
theorem routesFromDownstreamOrUnassigned : Obligations.RoutesFromDownstreamOrUnassigned := by
  refine ⟨fun f s ha => ?_, fun f s h0 => ⟨fun hd hs hk => ?_, fun hother => ?_, work_unassigned h0 .d f⟩⟩
  · rw [work_down ha]
    refine ⟨fun hr => routeDown_misrouted (.inl hr), fun _ hs => routeDown_misrouted (.inr hs), fun hr hs => ?_,
      fun hr h1 h18 => ?_, fun hr hs hk1 hk2 => ?_, fun hr hs hk => ?_, fun hr hs hk => ?_, fun t hsrc => ?_,
      fun x hsrc hk => deliverDown_headReading hsrc hk, deliverDown_refused⟩
    · rw [routeDown_own_reach hr (by omega), if_pos hs]
    · rw [routeDown_own_reach hr (by omega), if_neg (by omega)]
    · rw [routeDown_climbs hr hs, climb_other hk1 hk2]
    · exact (routeDown_climbs hr hs).trans (climb_demand hk)
    · rw [routeDown_climbs hr hs, climb_release hk]
    · refine ⟨fun hk => ?_, fun hk => ?_, fun hk => ?_⟩ <;>
        rw [deliverDown_turnout hsrc (by simp [hk]), deliverTurnout] <;> simp [hk]
  · rw [work_unassigned h0, routeUnassigned, if_pos ⟨hd, hs, isRequest_iff.2 hk⟩]
  · rw [work_unassigned h0, routeUnassigned,
      if_neg fun h => hother ⟨h.1, h.2.1, isRequest_iff.1 h.2.2⟩]

end Sys2Proof.Machine

/-! PROOFS. What every command answers, and the queue of commands (O2). -/

namespace Sys2Proof.Machine

open Sys2Proof.Safety

/-! ## Store operation ends leave the queue of commands alone -/

theorem settleOp_within (op : StoreOp) (passed : Bool) (s : State) : Within [.store] s (settleOp op passed s) :=
  store_within _ s

theorem raiseFailed_within (passed : Bool) (s : State) : Within [.comms] s (raiseFailed passed s) :=
  within_ite (Within.refl _ _) (raise_within _ _)

theorem sendCommitEnd_within (op : StoreOp) (passed : Bool) (s : State) :
    Within [.comms] s (sendCommitEnd op passed s) := by
  unfold sendCommitEnd
  split
  · exact Within.refl _ _
  · exact sendOffice_within _ _ _ _

theorem afterErase_within (r : RegionId) (s : State) : Within storeParts s (afterErase r s) := by
  unfold afterErase
  split
  · exact beginErase_within _ _
  · exact beginWipeWrite_within _ _

theorem afterOp_pending (op : StoreOp) (s : State) : (afterOp op s).pending = s.pending := by
  unfold afterOp
  split
  · rfl
  · exact (within_ite (beginErase_within _ s) (within_ite (beginSnapshot_within s) (Within.refl _ _))).pending

theorem afterWipeWrite_pending (r : RegionId) (s : State) : (afterWipeWrite r s).pending = s.pending := by
  unfold afterWipeWrite
  split
  · exact (beginWipeWrite_within _ s).pending
  · rfl

/-- The outcome of an operation in its region, and STORE FAULT when it failed. -/
theorem settled_pending (op : StoreOp) (passed : Bool) (s : State) :
    (raiseFailed passed (settleOp op passed s)).pending = s.pending :=
  (raiseFailed_within _ _).pending.trans (settleOp_within _ _ _).pending

theorem operationEnd_pending (passed : Bool) (s : State) : (operationEnd passed s).pending = s.pending := by
  unfold operationEnd
  split
  next r _ => exact (afterErase_within r s).pending
  next r op _ _ => exact (afterWipeWrite_pending r _).trans (settled_pending op passed s)
  next op _ _ _ =>
    exact (afterOp_pending op _).trans ((sendCommitEnd_within op passed _).pending.trans (settled_pending op passed s))
  next => rfl

/-! ## So do the gate timers, a move of the supply and the end of loading -/

theorem replyTimeout_within (t : Turnout) (s : State) : Within endParts s (replyTimeout t s) :=
  within_ite (timerFault_within _ _ _) (Within.refl _ _)

theorem travelTimeout_within (t : Turnout) (s : State) : Within endParts s (travelTimeout t s) :=
  within_ite (timerFault_within _ _ _) (Within.refl _ _)

theorem supplyMoves_pending (level : Nat) (s : State) : (supplyMoves level s).pending = s.pending := by
  obtain hkeeps | hrestart := supplyMoves_cases level s
  · exact hkeeps.pending
  · rw [hrestart]
    exact (supplySettles_keeps level s).pending

theorem finishLoading_pending (s : State) : (finishLoading s).pending = s.pending := by
  unfold finishLoading
  split
  · rfl
  · exact (endLoading_keeps _ s).pending

/-! ## What every command answers -/

/-- A command that reaches a running part alone, by an operation that leaves the queue of commands alone. -/
theorem answers_whileRunning {c : Instr} {f : State → State} {s : State} (he : exec c s = .next (whileRunning f s))
    (hf : (f s).pending = s.pending) :
    ∃ t, exec c s = .next t ∧ t.pending = s.pending
      ∧ (isRunning s = false → takenWhileStopped c = false → t = s) := by
  refine ⟨_, he, ?_, fun hstopped _ => whileRunning_stopped hstopped⟩
  cases hrun : isRunning s with
  | true => rw [whileRunning_runs hrun, hf]
  | false => rw [whileRunning_stopped hrun]

/-- A command that reaches a stopped or loading part too. -/
theorem answers_whileStopped {c : Instr} {s t : State} (hc : takenWhileStopped c = true) (he : exec c s = .next t)
    (ht : t.pending = s.pending) :
    ∃ t, exec c s = .next t ∧ t.pending = s.pending
      ∧ (isRunning s = false → takenWhileStopped c = false → t = s) :=
  ⟨t, he, ht, fun _ h => by simp [hc] at h⟩

/-- Settles O2, by the operation of each command. -/
theorem everyCommandAnswersNext : Obligations.EveryCommandAnswersNext := by
  intro c s
  cases c with
  | endGap p => exact answers_whileRunning rfl (endGap_keeps p s).pending
  | captureSaturation p => exact answers_whileRunning rfl (captureSaturation_keeps p s).pending
  | inactiveEdge p width => exact answers_whileRunning rfl (inactiveEdge_keeps p width s).pending
  | activeEdge p => exact answers_whileRunning rfl (activeEdge_keeps p s).pending
  | transmitStart p quiet => exact answers_whileRunning rfl (transmitStart_keeps p quiet s).pending
  | transmitEnd p => exact answers_whileRunning rfl (transmitEnd_keeps p s).pending
  | talkerClash p => exact answers_whileRunning rfl (talkerClash_keeps p s).pending
  | routeFrame => exact answers_whileRunning rfl (routeNext_keeps s).pending
  | tableWriteReach | tableWriteTurnouts | tableWriteRating | tableWriteAccounts | tableWriteTariff
  | tableWriteLineTiming | tableWriteScan | tableWriteAlertEnables | tableRead | statusRead | eventClear | orderRead
  | commandRestart | commandLockTariff | commandWipe | storeCommit | billReadPeek | billReadCollect =>
    exact answers_whileRunning rfl (takeRequest_keeps _ _ s).pending
  | time | frostCall | curtail | order | orderCancel | confirmAtOrigin | refuseAtOrigin | demand | confirmPassing
  | refusePassing | release | gateReport | headReading =>
    exact answers_whileRunning rfl (work_keeps _ _ s).pending
  | tick => exact answers_whileRunning rfl (tick_within s).pending
  | frostWindowEndReached => exact answers_whileRunning rfl (frostEnd_within s).pending
  | periodClose => exact answers_whileRunning rfl (periodCloseEvent_within s).pending
  | holdDeadlineReached => exact answers_whileRunning rfl (takeOrderEvent_within _ lapse_within s).pending
  | startReached => exact answers_whileRunning rfl (takeOrderEvent_within _ startOrder_within s).pending
  | endReached =>
    have hend : ∀ o t, Within orderParts t (endOrder .completed o t) := fun o t =>
      (endOrder_within _ o t).mono (by decide)
    exact answers_whileRunning rfl (takeOrderEvent_within _ hend s).pending
  | carriageHoldDeadlineReached | windowEndReached =>
    exact answers_whileRunning rfl (takeCarriageEvent_within _ s).pending
  | gateReplyTimeout t => exact answers_whileRunning rfl (replyTimeout_within t s).pending
  | gateTravelTimeout t => exact answers_whileRunning rfl (travelTimeout_within t s).pending
  | scanIntervalExpiry => exact answers_whileRunning rfl (intervalExpiry_within s).pending
  | pollReplyTimeout => exact answers_whileRunning rfl (pollTimeout_within s).pending
  | storeOperationEnd passed => exact answers_whileRunning rfl (operationEnd_pending passed s)
  | supplyLow level | supplyNormal level | supplyBackup level | supplyRestart level | workingMemoryLoss level =>
    exact answers_whileStopped rfl rfl (supplyMoves_pending level s)
  | loadingComplete => exact answers_whileStopped rfl rfl (finishLoading_pending s)

end Sys2Proof.Machine

/-! PROOFS. EVENT CLEAR (O23). -/

namespace Sys2Proof.Machine

open Sys2Proof.Safety

/-! ## A request that is acted on is its own rule's work (R31, R49) -/

theorem exec_eventClear_acted {q : Byte} {body : List Byte} {s : State} (h : ActedOn 0x77 q s)
    (hb : requestNumber body = q) : exec (.eventClear body) s = .next (actEventClear body s) :=
  congrArg Host.Outcome.next (requestOf_acted h hb)

theorem actEventClear_malformed {body : List Byte} (s : State) (h : body.length ≠ 4 ∨ 1 < field body 3 1) :
    actEventClear body s = refuse (requestNumber body) 0x77 1 s :=
  if_pos h

/-! ## The fields of a four-byte body: request number, flag set, counters option -/

theorem field_eventClear_set (q option : Byte) (set : BitVec 16) :
    field ([q] ++ be 2 set.toNat ++ [option]) 1 2 = set.toNat :=
  (field_cons_succ q _ 0 2).trans (field_be_append [option] set.isLt)

theorem field_eventClear_option (q option : Byte) (set : BitVec 16) :
    field ([q] ++ be 2 set.toNat ++ [option]) 3 1 = option.toNat := by
  rw [field_append_right (by simp)]
  exact field_cons_zero_one option []

/-- A well-formed body: the named flags are cleared, option 1 zeroes the line counters, and the reply is DONE. -/
theorem actEventClear_wellFormed (q option : Byte) (set : BitVec 16) (s : State) (h : option.toNat ≤ 1) :
    actEventClear ([q] ++ be 2 set.toNat ++ [option]) s =
      done q 0x77 (if option.toNat = 1 then zeroCounts (clearFlags set s) else clearFlags set s) := by
  have hformed : ¬ (([q] ++ be 2 set.toNat ++ [option]).length ≠ 4
      ∨ 1 < field ([q] ++ be 2 set.toNat ++ [option]) 3 1) := by
    rw [field_eventClear_option]
    simpa using h
  rw [actEventClear, if_neg hformed, field_eventClear_set, field_eventClear_option, BitVec.ofNat_toNat,
    BitVec.setWidth_eq]
  rfl

/-- Settles O23, by the two values of the counters option and the malformed body. -/
theorem eventClear : Obligations.EventClear := by
  intro q set s h
  refine ⟨?_, ?_, fun body hq hbad => ?_⟩
  · rw [exec_eventClear_acted h rfl, actEventClear_wellFormed q 0 set s (by decide)]
    rfl
  · rw [exec_eventClear_acted h rfl, actEventClear_wellFormed q 1 set s (by decide)]
    rfl
  · rw [exec_eventClear_acted h hq, actEventClear_malformed s hbad, hq]

end Sys2Proof.Machine

/-! PROOFS. Admission: an ORDER that passes the twelve checks (O35). -/

namespace Sys2Proof.Machine

open Sys2Proof.Safety

/-! ## An ORDER body and its bytes (R74, section 4.2) -/

theorem classOf_classCode (c : OrderClass) : classOf (classCode c) = c := by
  cases c <;> rfl

theorem classCode_le_one (c : OrderClass) : classCode c ≤ 1 := by
  cases c <;> decide

/-- The body of an ORDER as bytes. -/
def requestBytes (q : OrderRequest) : List Byte :=
  be 1 q.terminal ++ be 2 q.account ++ be 1 (classCode q.cls) ++ be 3 q.start ++ be 3 q.duration ++ be 2 q.rate

theorem requestBytes_length (q : OrderRequest) : (requestBytes q).length = 12 := by
  simp [requestBytes]

/-- The fields of an ORDER body, each at its place (section 4.2). -/
theorem field_requestBytes {q : OrderRequest} (ht : q.terminal < 256) (ha : q.account < 65536) (hs : q.start < 16777216)
    (hd : q.duration < 16777216) (hr : q.rate < 65536) :
    field (requestBytes q) 0 1 = q.terminal ∧ field (requestBytes q) 1 2 = q.account
      ∧ field (requestBytes q) 3 1 = classCode q.cls ∧ field (requestBytes q) 4 3 = q.start
      ∧ field (requestBytes q) 7 3 = q.duration ∧ field (requestBytes q) 10 2 = q.rate := by
  have hc : classCode q.cls < 256 := (classCode_le_one q.cls).trans_lt (by decide)
  simp [requestBytes, field_append_right, field_be_append, field_be, ht, ha, hs, hd, hr, hc]

/-- A well-formed ORDER is read back from its bytes. -/
theorem parseOrder_requestBytes {q : OrderRequest} (ht : 1 ≤ q.terminal) (ht' : q.terminal < 256)
    (ha : q.account < 65536) (hs : q.start < 16777216) (hd : 900 ≤ q.duration) (hd' : q.duration ≤ 259200)
    (hr : q.rate < 65536) : parseOrder (requestBytes q) = some q := by
  obtain ⟨hterminal, haccount, hcls, hstart, hduration, hrate⟩ := field_requestBytes ht' ha hs (by omega) hr
  rw [parseOrder, hterminal, haccount, hcls, hstart, hduration, hrate, requestBytes_length, classOf_classCode,
    if_pos ⟨rfl, by omega, classCode_le_one _, hd, hd'⟩]

/-! ## The twelve checks (R75 to R78) -/

/-- The one slot that holds an account number is the slot found. -/
theorem findSlot_of_unique {accounts : Vector AccountEntry 64} {number : Nat} {i : Fin 64} (hn : number ≠ 0)
    (hi : (getAt accounts i).number = number) (hu : ∀ j, (getAt accounts j).number = number → j = i) :
    findSlot accounts number = some i := by
  cases hf : findSlot accounts number with
  | none => simpa [hn, hi] using List.find?_eq_none.1 hf i (List.mem_finRange i)
  | some j =>
    have hj := List.find?_some hf
    simp only [Bool.and_eq_true, bne_iff_ne, beq_iff_eq] at hj
    rw [hu j hj.2]

theorem activeSlot_of_found {account : Nat} {s : State} {i : Fin 64} (hf : findSlot s.tables.accounts account = some i)
    (ha : (getAt s.tables.accounts i).active = true) : activeSlot account s = some i := by
  simp [activeSlot, hf, ha]

theorem inFault_eq_true_iff {g : GateRec} : inFault g = true ↔ ∃ c, g.state = .fault c := by
  unfold inFault
  cases g.state <;> simp

theorem inFault_eq_false_iff {g : GateRec} : inFault g = false ↔ ∀ c, g.state ≠ .fault c := by
  rw [← Bool.not_eq_true, inFault_eq_true_iff, not_exists]

theorem turnoutReady_iff {t : Turnout} {s : State} :
    turnoutReady t s = true ↔ (getAt s.tables.turnouts t).enabled = true ∧ (getAt s.gates t).ready = true
      ∧ ∀ c, (getAt s.gates t).state ≠ .fault c := by
  simp only [turnoutReady, Bool.and_eq_true, Bool.not_eq_true', inFault_eq_false_iff, and_assoc]

theorem startOk_iff {q : OrderRequest} {s : State} :
    startOk q s = true
      ↔ s.clock.seconds + s.tables.reach.orderLead ≤ q.start ∧ q.start ≤ s.clock.seconds + 604800 := by
  rw [startOk, Bool.and_eq_true, decide_eq_true_eq, decide_eq_true_eq]
  rfl

theorem windowFree_iff {t : Turnout} {q : OrderRequest} {s : State} :
    windowFree t q s = true
      ↔ ∀ o ∈ s.orders.table, o.turnout = t → q.start + q.duration ≤ o.start ∨ o.stop ≤ q.start := by
  simp only [windowFree, Bool.not_eq_true', List.any_eq_false, Bool.and_eq_true, beq_iff_eq, overlaps,
    decide_eq_true_eq, not_and_or, not_lt]
  exact forall₂_congr fun o _ => by tauto

theorem frostAnswer_iff {c : Clock} {a b : Nat} :
    frostAnswer c a b = true ↔ ∃ w, c.frost = some w ∧ w.start ≤ a ∧ b ≤ w.stop := by
  unfold frostAnswer
  cases c.frost <;> simp

theorem frostOk_iff {q : OrderRequest} {a : AccountEntry} {s : State} :
    frostOk q a s = true ↔ (q.cls = .frost → a.frostEligible = true
      ∧ ∃ w, s.clock.frost = some w ∧ w.start ≤ q.start ∧ q.start + q.duration ≤ w.stop) := by
  unfold frostOk
  cases q.cls <;> simp [frostAnswer_iff]

theorem admissionLimit_eq (a : AccountEntry) (c : OrderClass) :
    admissionLimit a c = if c = .frost then (a.allotment + a.overdraft) * 1000 else a.allotment * 1000 := by
  cases c <;> rfl

/-- Check 10 second by second: every own record counts against a NORMAL order, the frost sum against a FROST one. -/
theorem drawFits_iff {q : OrderRequest} {s : State} :
    drawFits q s = true ↔ ∀ x, q.start ≤ x → x < q.start + q.duration →
      (if q.cls = .frost then frostSum s.orders.table x
       else ((s.orders.table.filter (orderCovers x)).map (·.rate)).sum) + q.rate ≤ s.clock.drawLimit := by
  unfold drawFits
  cases q.cls with
  | normal => exact everySecond_rateAt.trans (by simp [inSpan, rateAt])
  | frost => exact everySecond_rateAt.trans (by simp [inSpan, frostSum])

/-- The carriage unit's answer second by second (R100). -/
theorem fits_iff {r a b : Nat} {s : State} :
    fits r a b s = true ↔ ∀ x, s.clock.seconds ≤ x → a ≤ x → x < b →
      inflowSum s.tables.reach.tailMin s.tables.reach.travelLag s.orders.table s.carriage.list x + r
        ≤ s.tables.reach.capacity := by
  simp only [fits, everySecond_inflow, inSpan, now, Option.some.injEq, forall_eq', max_le_iff, and_imp]
  exact ⟨fun h x hnow ha hb => h x ha hnow hb, fun h x ha hnow hb => h x hnow ha hb⟩

/-- An order for which the third check and all after it hold gives no reason to refuse it. -/
theorem laterChecks_eq_none {t : Turnout} {q : OrderRequest} {i : Fin 64} {s : State}
    (hready : turnoutReady t s = true) (hpermitted : permits (getAt s.tables.accounts i).permitted t = true)
    (hrate : 1 ≤ q.rate) (hmax : q.rate ≤ (getAt s.tables.turnouts t).maxRate) (hstart : startOk q s = true)
    (hfree : windowFree t q s = true) (hfrost : frostOk q (getAt s.tables.accounts i) s = true)
    (hvolume : accountDemand i q s ≤ admissionLimit (getAt s.tables.accounts i) q.cls) (hdraw : drawFits q s = true)
    (hinflow : fits q.rate (shifted s q.start) (shifted s (q.start + q.duration)) s = true)
    (hroom : s.orders.table.length < 48) : laterChecks t q i s = none := by
  simp [laterChecks, hready, hpermitted, hrate, hmax, hstart, hfree, hfrost, Nat.not_lt.2 hvolume, hdraw,
    hinflow, Nat.not_le.2 hroom]

theorem refusalReason_of_active {t : Turnout} {q : OrderRequest} {i : Fin 64} {s : State}
    (hclock : s.clock.status = .set) (hsupply : s.supply.status = .normal)
    (hslot : activeSlot q.account s = some i) : refusalReason t q s = laterChecks t q i s := by
  simp [refusalReason, hclock, hsupply, hslot]

/-! ## Admission (R79, R80) -/

/-- A notice of an assigned part goes to its station by the D queue (R20, R84). -/
theorem sendNotice_assigned {s : State} (h : ownReach s ≠ 0) (t : Turnout) (b : List Byte) (m : Bool) :
    sendNotice t b m s = place .d (mkFrame ⟨ownReach s, t.val + 1⟩ ⟨ownReach s, 0⟩ 0x23 b m) s :=
  sendStation_down h _ _ _ _

theorem sendDemand_assigned {s : State} (h : ownReach s ≠ 0) (o : OrderRec) (d : Nat) :
    sendDemand o d s = place .u (mkFrame ⟨0, 0⟩ ⟨ownReach s, 0⟩ 0x51
      (be 1 (ownReach s) ++ be 1 o.tag ++ be 1 (classCode o.cls) ++ be 3 (o.start - s.tables.reach.travelLag)
        ++ be 3 (o.stop - s.tables.reach.travelLag) ++ be 2 o.rate ++ be 3 d) (isFrost o.cls)) s :=
  sendOffice_up h _ _ _

theorem sendProvisional_assigned {s : State} (h : ownReach s ≠ 0) (o : OrderRec) (d : Nat) :
    sendProvisional o d s = place .d (mkFrame ⟨ownReach s, o.turnout.val + 1⟩ ⟨ownReach s, 0⟩ 0x23
      (be 1 o.terminal ++ be 1 o.tag ++ be 1 0 ++ be 3 o.start ++ be 3 o.stop ++ be 3 d) (isFrost o.cls)) s :=
  sendNotice_assigned h _ _ _

theorem takeOrder_admits {t : Turnout} {q : OrderRequest} {body : List Byte} {s : State}
    (hbody : parseOrder body = some q) (hpass : refusalReason t q s = none) :
    takeOrder t body s = admitOrder t q s := by
  simp only [takeOrder, hbody, hpass]

/-- Settles O35: the body is read back, each check holds by its own lemma, and the two frames go by their queues. -/
theorem orderIsAdmitted : Obligations.OrderIsAdmitted := by
  intro t m q i s hrun hassigned ht ht' ha ha' hs hd hd' hr a e g r stop frost hclock hsupply hnumber hunique hactive
    henabled hready hfault hpermitted hrate hmax hlead hhorizon hfree hfrost hvolume hdraw hinflow hroom
  have h0 := assigned_ne_zero hassigned
  have hslot : activeSlot q.account s = some i :=
    activeSlot_of_found (findSlot_of_unique (by omega) hnumber hunique) hactive
  have hpass : refusalReason t q s = none := by
    rw [refusalReason_of_active hclock hsupply hslot]
    exact laterChecks_eq_none (turnoutReady_iff.2 ⟨henabled, hready, hfault⟩) hpermitted hrate hmax
      (startOk_iff.2 ⟨hlead, hhorizon⟩) (windowFree_iff.2 hfree) (frostOk_iff.2 hfrost)
      (admissionLimit_eq .. ▸ hvolume) (drawFits_iff.2 hdraw) (fits_iff.2 hinflow) hroom
  intro tag deadline o booked
  refine (exec_order hrun hassigned t m (requestBytes q)).trans (congrArg Host.Outcome.next ?_)
  have hbooked : ownReach booked ≠ 0 := h0
  have hprovisional := sendProvisional_assigned hbooked o deadline
  have hdemand := sendDemand_assigned (s := sendProvisional o deadline booked) h0 o deadline
  calc takeOrder t (requestBytes q) s
      = raiseDue (sendDemand o deadline (sendProvisional o deadline booked)) :=
        takeOrder_admits (parseOrder_requestBytes ht ht' ha' hs hd hd' hr) hpass
    _ = _ := by rw [hdemand, hprovisional]; rfl

end Sys2Proof.Machine

/-! PROOFS. CONFIRM and REFUSE at the origin, and the renumbering of the sequences (O37). -/

namespace Sys2Proof.Machine

open Sys2Proof.Safety

/-! ## A record in a new state, and with a new sequence (R71, R72) -/

theorem setOrderState_eq (tag : Nat) (st : OrderState) (u : OrderUnit) :
    setOrderState tag st u = { u with
      table := u.table.map fun o => if o.tag = tag then { o with state := st } else o
      raised := u.raised.filter fun e => e.tag != tag } := by
  simp [setOrderState, unbook]

theorem withSequence_eq (k : Nat) (o : OrderRec) :
    withSequence k o = { o with state := match o.state with
      | .provisional d => .provisional d
      | .confirmed _ => .confirmed k
      | .running _ v c => .running k v c } := by
  obtain ⟨tag, terminal, account, t, cls, start, stop, rate, state⟩ := o
  cases state <;> rfl

theorem withSequence_of_no_sequence {k : Nat} {o : OrderRec} (h : sequenceOf o = none) : withSequence k o = o := by
  obtain ⟨tag, terminal, account, t, cls, start, stop, rate, state⟩ := o
  cases state with
  | provisional d => rfl
  | confirmed q | running q v c => exact absurd h (Option.some_ne_none q)

/-! ## Renumbering (R71) -/

/-- The records that hold a sequence: the CONFIRMED and the RUNNING ones. -/
def sequenced (table : List OrderRec) : List OrderRec := table.filter fun o => (sequenceOf o).isSome

/-- The sequence that a renumbering gives to the record of a tag: its place in the order of sequence, from 1 on. -/
def newSequence (table : List OrderRec) (tag : Nat) : Nat := (tagsBySequence table).idxOf tag + 1

theorem tagsBySequence_eq (table : List OrderRec) :
    tagsBySequence table = (sortBy sequenceKey (sequenced table)).map (·.tag) := rfl

theorem tagsBySequence_length (table : List OrderRec) : (tagsBySequence table).length = (sequenced table).length := by
  rw [tagsBySequence_eq, List.length_map, length_sortBy]

theorem tag_mem_tagsBySequence {table : List OrderRec} {o : OrderRec} (ho : o ∈ sequenced table) :
    o.tag ∈ tagsBySequence table :=
  List.mem_map_of_mem ((mem_sortBy ..).2 ho)

/-- A renumbering by each record's new sequence; a PROVISIONAL record holds none and stays as it is. -/
theorem renumber_eq (u : OrderUnit) :
    renumber u = { u with
      table := u.table.map fun o => withSequence (newSequence u.table o.tag) o
      confCounter := (sequenced u.table).length } := by
  rw [renumber, tagsBySequence_length]
  congr 1
  refine List.map_congr_left fun o _ => ?_
  cases h : sequenceOf o with
  | none => exact (withSequence_of_no_sequence h).symm
  | some q => rfl

theorem newSequence_mem_range {table : List OrderRec} {o : OrderRec} (ho : o ∈ sequenced table) :
    1 ≤ newSequence table o.tag ∧ newSequence table o.tag ≤ (sequenced table).length := by
  have hplace := List.idxOf_lt_length_of_mem (tag_mem_tagsBySequence ho)
  rw [tagsBySequence_length] at hplace
  exact ⟨Nat.succ_pos _, hplace⟩

/-- Where no tag stands twice, two records of one table with one tag are the same record. -/
theorem eq_of_tag_eq {table : List OrderRec} (ht : table.Pairwise ordersApart) {x y : OrderRec} (hx : x ∈ table)
    (hy : y ∈ table) (h : x.tag = y.tag) : x = y := by
  have hfind := findTag_of_mem ht hx
  rw [h, findTag_of_mem ht hy] at hfind
  exact (Option.some.inj hfind).symm

/-- Different records get different sequences. -/
theorem newSequence_injective {table : List OrderRec} (ht : table.Pairwise ordersApart) {x y : OrderRec}
    (hx : x ∈ sequenced table) (hy : y ∈ sequenced table) (h : newSequence table x.tag = newSequence table y.tag) :
    x = y :=
  eq_of_tag_eq ht (List.mem_of_mem_filter hx) (List.mem_of_mem_filter hy)
    ((List.idxOf_inj (tag_mem_tagsBySequence hx)).1 (Nat.succ.inj h))

/-- A record stands, in the order of sequence, at the place of its tag. -/
theorem sorted_at_idxOf {table : List OrderRec} (ht : table.Pairwise ordersApart) {x : OrderRec}
    (hx : x ∈ sequenced table) :
    (sortBy sequenceKey (sequenced table))[(tagsBySequence table).idxOf x.tag]? = some x := by
  have hplace := List.idxOf_lt_length_of_mem (tag_mem_tagsBySequence hx)
  have htag := List.getElem_idxOf hplace
  simp only [tagsBySequence_eq, List.length_map, List.getElem_map] at hplace htag
  rw [tagsBySequence_eq, List.getElem?_eq_getElem hplace, Option.some_inj]
  have hmem := (mem_sortBy ..).1 (List.getElem_mem hplace)
  exact eq_of_tag_eq ht (List.mem_of_mem_filter hmem) (List.mem_of_mem_filter hx) htag

/-- The new sequences keep the order of the old ones. -/
theorem newSequence_lt {table : List OrderRec} (ht : table.Pairwise ordersApart) {x y : OrderRec}
    (hx : x ∈ sequenced table) (hy : y ∈ sequenced table) {a b : Nat} (ha : sequenceOf x = some a)
    (hb : sequenceOf y = some b) (hab : a < b) : newSequence table x.tag < newSequence table y.tag := by
  by_contra hnot
  have hle : (tagsBySequence table).idxOf y.tag ≤ (tagsBySequence table).idxOf x.tag :=
    Nat.le_of_succ_le_succ (Nat.not_lt.1 hnot)
  obtain heq | hlt := hle.eq_or_lt
  · obtain rfl := newSequence_injective ht hx hy (congrArg (· + 1) heq.symm)
    rw [ha] at hb
    exact hab.ne (Option.some.inj hb)
  · obtain ⟨hxlen, hxat⟩ := List.getElem?_eq_some_iff.1 (sorted_at_idxOf ht hx)
    obtain ⟨hylen, hyat⟩ := List.getElem?_eq_some_iff.1 (sorted_at_idxOf ht hy)
    have hkeys := List.pairwise_iff_getElem.1 (sortBy_ascending sequenceKey (sequenced table)) _ _ hylen hxlen hlt
    rw [hxat, hyat, sequenceKey, sequenceKey, ha, hb] at hkeys
    exact absurd hab (Nat.not_lt.2 hkeys)

/-! ## The record that an answer names (R81, R83) -/

theorem findProvisional_named {o : OrderRec} {d : Nat} {s : State} (ho : findTag o.tag s.orders.table = some o)
    (hd : o.state = .provisional d) : findProvisional o.tag s = some o := by
  simp [findProvisional, ho, isProvisional, hd]

theorem findProvisional_unmatched {tag : Nat} {s : State}
    (h : ∀ o ∈ s.orders.table, o.tag = tag → isProvisional o = false) : findProvisional tag s = none := by
  unfold findProvisional
  cases hf : findTag tag s.orders.table with
  | none => rfl
  | some o =>
    obtain ⟨hmem, htag⟩ := findTag_some hf
    simp [h o hmem htag]

/-- A body of the right length and reach that is yet unmatched names no PROVISIONAL record. -/
theorem findProvisional_wellFormed {n : Nat} {body : List Byte} {s : State}
    (h : body.length ≠ n ∨ field body 0 1 ≠ ownReach s
      ∨ ∀ o ∈ s.orders.table, o.tag = field body 1 1 → isProvisional o = false)
    (hformed : body.length = n ∧ field body 0 1 = ownReach s) : findProvisional (field body 1 1) s = none := by
  obtain ⟨hlength, hreach⟩ := hformed
  obtain hbad | hbad | hnone := h
  · exact absurd hlength hbad
  · exact absurd hreach hbad
  · exact findProvisional_unmatched hnone

/-- The key of a CONFIRM or REFUSE body: the origin reach and the tag, each in one byte. -/
theorem field_answer {reach tag : Nat} (rest : List Byte) (hr : reach < 256) (ht : tag < 256) :
    field (be 1 reach ++ be 1 tag ++ rest) 0 1 = reach ∧ field (be 1 reach ++ be 1 tag ++ rest) 1 1 = tag := by
  simp [be_one, Nat.mod_eq_of_lt, hr, ht]

theorem takeConfirm_named {o : OrderRec} {d : Nat} {s : State} (ha : Assigned s)
    (ho : findTag o.tag s.orders.table = some o) (hd : o.state = .provisional d) (ht : o.tag < 256) :
    takeConfirm (be 1 (ownReach s) ++ be 1 o.tag) s = confirmOrder o s := by
  obtain ⟨hreach, htag⟩ := field_answer [] (ha.2.trans_lt (by decide)) ht
  rw [List.append_nil] at hreach htag
  rw [takeConfirm, if_pos ⟨rfl, hreach⟩, htag, findProvisional_named ho hd]

theorem takeRefuse_named {o : OrderRec} {d : Nat} {s : State} (ha : Assigned s)
    (ho : findTag o.tag s.orders.table = some o) (hd : o.state = .provisional d) (ht : o.tag < 256)
    (refusing reason : Byte) :
    takeRefuse (be 1 (ownReach s) ++ be 1 o.tag ++ [refusing, reason]) s
      = refuseOrder o refusing.toNat reason.toNat s := by
  obtain ⟨hreach, htag⟩ := field_answer [refusing, reason] (ha.2.trans_lt (by decide)) ht
  rw [takeRefuse, if_pos ⟨rfl, hreach⟩, htag, findProvisional_named ho hd]
  simp [be_one]

theorem takeConfirm_unmatched {body : List Byte} {s : State}
    (h : body.length ≠ 2 ∨ field body 0 1 ≠ ownReach s
      ∨ ∀ o ∈ s.orders.table, o.tag = field body 1 1 → isProvisional o = false) :
    takeConfirm body s = countUnmatched s := by
  unfold takeConfirm
  split
  next hformed => rw [findProvisional_wellFormed h hformed]
  next => rfl

theorem takeRefuse_unmatched {body : List Byte} {s : State}
    (h : body.length ≠ 4 ∨ field body 0 1 ≠ ownReach s
      ∨ ∀ o ∈ s.orders.table, o.tag = field body 1 1 → isProvisional o = false) :
    takeRefuse body s = countUnmatched s := by
  unfold takeRefuse
  split
  next hformed => rw [findProvisional_wellFormed h hformed]
  next => rfl

/-! ## What a CONFIRM and a REFUSE of a PROVISIONAL record do (R81, R83) -/

/-- The record takes the next sequence where the counter can still give one. -/
theorem confirmRecord_below_top {u : OrderUnit} (tag : Nat) (h : u.confCounter ≠ 65535) :
    confirmRecord tag u = setOrderState tag (.confirmed (u.confCounter + 1))
      { u with confCounter := u.confCounter + 1 } := by
  rw [confirmRecord, readySequence, if_neg h]

/-- With the counter at its top the records are renumbered first, and the record takes the sequence after theirs. -/
theorem confirmRecord_at_top {u : OrderUnit} (tag : Nat) (h : u.confCounter = 65535) :
    confirmRecord tag u = setOrderState tag (.confirmed ((sequenced u.table).length + 1)) { u with
      table := u.table.map fun o => withSequence (newSequence u.table o.tag) o
      confCounter := (sequenced u.table).length + 1 } := by
  rw [confirmRecord, readySequence, if_pos h, renumber_eq]

/-- Bumping is a FROST record's alone (R81, R82). -/
theorem bumpedFor_eq (o : OrderRec) (s : State) :
    (if isFrost o.cls then bump82 o s else s) = match o.cls with | .frost => bump82 o s | .normal => s := by
  cases o.cls <;> rfl

theorem ownReach_bumpedFor (o : OrderRec) (s : State) :
    ownReach (if isFrost o.cls then bump82 o s else s) = ownReach s := by
  have hwithin : Within endParts s (if isFrost o.cls then bump82 o s else s) :=
    within_ite (bump82_within o s) (Within.refl _ _)
  exact congrArg (fun x : Tables => x.reach.number) (hwithin.keeps .tables (by decide))

/-- A record that has become CONFIRMED bumps if it is FROST, and then CONFIRMED goes to its station. -/
theorem confirmOrder_assigned {o : OrderRec} {u : OrderUnit} {s : State} (h : ownReach s ≠ 0)
    (hu : confirmRecord o.tag s.orders = u) :
    confirmOrder o s = raiseDue (place .d (mkFrame ⟨ownReach s, o.turnout.val + 1⟩ ⟨ownReach s, 0⟩ 0x23
      (be 1 o.terminal ++ be 1 o.tag ++ be 1 1 ++ be 3 o.start ++ be 3 o.stop) (isFrost o.cls))
      (match o.cls with | .frost => bump82 o { s with orders := u } | .normal => { s with orders := u })) := by
  have hreach := ownReach_bumpedFor o { s with orders := u }
  rw [confirmOrder, hu, sendConfirmed, sendNotice_assigned (by rw [hreach]; exact h), hreach, bumpedFor_eq]
  rfl

theorem refuseOrder_assigned {o : OrderRec} {s : State} (h : ownReach s ≠ 0) (refusing reason : Byte) :
    refuseOrder o refusing.toNat reason.toNat s =
      place .d (mkFrame ⟨ownReach s, o.turnout.val + 1⟩ ⟨ownReach s, 0⟩ 0x23
        (be 1 o.terminal ++ be 1 o.tag ++ be 1 2 ++ [refusing, reason]) (isFrost o.cls))
        { s with orders := dropOrder o.tag s.orders } := by
  rw [refuseOrder, sendRefused, sendNotice_assigned (by exact h)]
  simp [be_one, ownReach]

/-- Settles O37: the named record by the counter and the kind of answer, every other frame as unmatched. -/
theorem answersAtOrigin : Obligations.AnswersAtOrigin := by
  refine ⟨setOrderState_eq, withSequence_eq, fun src m s hrun ha hsrc => ⟨fun o d ho hd ht => ?_, fun body => ?_⟩⟩
  · have h0 := assigned_ne_zero ha
    have hconfirm := (exec_confirmAtOrigin hrun ha hsrc m _).trans
      (congrArg Host.Outcome.next (takeConfirm_named ha ho hd ht))
    refine ⟨fun hbelow => ?_, fun htop hlaw => ?_, fun by' reason => ?_⟩
    · exact hconfirm.trans (congrArg _ (confirmOrder_assigned h0 (confirmRecord_below_top o.tag hbelow)))
    · obtain ⟨_, hapart, _⟩ := hlaw
      exact ⟨newSequence s.orders.table, fun x hx => newSequence_mem_range hx,
        fun x hx y hy => newSequence_injective hapart hx hy,
        fun x hx y hy a b hxa hyb => newSequence_lt hapart hx hy hxa hyb,
        hconfirm.trans (congrArg _ (confirmOrder_assigned h0 (confirmRecord_at_top o.tag htop)))⟩
    · rw [exec_refuseAtOrigin hrun ha hsrc, takeRefuse_named ha ho hd ht, refuseOrder_assigned h0]
  · exact ⟨fun h => (exec_confirmAtOrigin hrun ha hsrc m body).trans (congrArg _ (takeConfirm_unmatched h)),
      fun h => (exec_refuseAtOrigin hrun ha hsrc m body).trans (congrArg _ (takeRefuse_unmatched h))⟩

end Sys2Proof.Machine

/-! PROOFS. The start event of an order (O38). -/

namespace Sys2Proof.Machine

open Sys2Proof.Safety

/-! ## A request for an opening (R119) -/

theorem requestOpening_fault {t : Turnout} {s : State} {c : FaultCause} (h : (getAt s.gates t).state = .fault c)
    (opening : Nat) (cls : OrderClass) : requestOpening t opening cls s = s := by
  simp only [requestOpening, h]

theorem requestOpening_no_fault {t : Turnout} {s : State} (h : ∀ c, (getAt s.gates t).state ≠ .fault c)
    (opening : Nat) (cls : OrderClass) : requestOpening t opening cls s = gateSet t opening (isFrost cls) true s := by
  unfold requestOpening
  split
  next c hfault => exact absurd hfault (h c)
  next => rfl

/-! ## The event taken, and the record it concerns (R57, R72) -/

theorem bookedOrder_confirmed {o : OrderRec} {seq : Nat} (h : o.state = .confirmed seq) :
    bookedOrder o = (⟨.startReached, o.tag⟩, o.start) := by
  simp only [bookedOrder, h]

/-- The first raised event concerns the record of its tag, where that record books it. -/
theorem takeOrderEvent_first {k : OrderEventKind} {f : OrderRec → State → State} {o : OrderRec}
    {rest : List OrderEvent} {s : State} (hraised : s.orders.raised = ⟨k, o.tag⟩ :: rest)
    (ho : findTag o.tag s.orders.table = some o) (hbooked : (bookedOrder o).1 = ⟨k, o.tag⟩) :
    takeOrderEvent k f s = f o { s with orders := { s.orders with raised := rest } } := by
  have hrecord : raisedRecord k s = some o := by
    simp [raisedRecord, hraised, ho, hbooked]
  have hpopped : popOrderEvent s.orders = { s.orders with raised := rest } := by
    rw [popOrderEvent, hraised, List.tail_cons]
  rw [takeOrderEvent, hrecord, hpopped]

theorem exec_startReached {o : OrderRec} {seq : Nat} {rest : List OrderEvent} {s : State} (hrun : Runs s)
    (hraised : s.orders.raised = ⟨.startReached, o.tag⟩ :: rest) (ho : findTag o.tag s.orders.table = some o)
    (hstate : o.state = .confirmed seq) :
    exec .startReached s = .next (startOrder o { s with orders := { s.orders with raised := rest } }) := by
  show Host.Outcome.next (whileRunning _ s) = _
  rw [whileRunning_runs hrun, takeOrderEvent_first hraised ho (by rw [bookedOrder_confirmed hstate])]

/-! ## The start checks in their order (R86) -/

theorem classLimit_eq (a : AccountEntry) (c : OrderClass) :
    classLimit a c = if c = .frost ∧ a.frostEligible = true then (a.allotment + a.overdraft) * 1000
      else a.allotment * 1000 := by
  cases c <;> simp [classLimit, normalLimit]

theorem startAllowed_found {o : OrderRec} {i : Fin 64} {s : State}
    (hslot : findSlot s.tables.accounts o.account = some i) :
    startAllowed o s = decide ((getAt s.metering.counters i).openVol + o.rate * (o.stop - s.clock.seconds)
      ≤ classLimit (getAt s.tables.accounts i) o.cls) := by
  rw [startAllowed, hslot]
  rfl

theorem startFailure_completed {o : OrderRec} {s : State} (hp : o.stop ≤ s.clock.seconds) :
    startFailure o s = some .completed :=
  if_pos hp

theorem startFailure_allotment {o : OrderRec} {s : State} (hp : ¬ o.stop ≤ s.clock.seconds)
    (ha : startAllowed o s = false) : startFailure o s = some .allotment := by
  simp [startFailure, now, hp, ha]

theorem startFailure_lockedOut {o : OrderRec} {s : State} (hp : ¬ o.stop ≤ s.clock.seconds)
    (ha : startAllowed o s = true) (hr : (getAt s.gates o.turnout).ready = false) :
    startFailure o s = some .lockedOut := by
  simp [startFailure, now, hp, ha, hr]

theorem startFailure_gateFault {o : OrderRec} {s : State} (hp : ¬ o.stop ≤ s.clock.seconds)
    (ha : startAllowed o s = true) (hr : (getAt s.gates o.turnout).ready = true)
    (hf : ∃ c, (getAt s.gates o.turnout).state = .fault c) : startFailure o s = some .gateFault := by
  simp [startFailure, now, hp, ha, hr, inFault_eq_true_iff.2 hf]

theorem startFailure_none {o : OrderRec} {s : State} (hp : ¬ o.stop ≤ s.clock.seconds)
    (ha : startAllowed o s = true) (hr : (getAt s.gates o.turnout).ready = true)
    (hf : ∀ c, (getAt s.gates o.turnout).state ≠ .fault c) : startFailure o s = none := by
  simp [startFailure, now, hp, ha, hr, inFault_eq_false_iff.2 hf]

theorem startOrder_fails {o : OrderRec} {seq : Nat} {cause : EndCause} {s : State} (hstate : o.state = .confirmed seq)
    (h : startFailure o s = some cause) : startOrder o s = endOrder cause o s := by
  simp only [startOrder, hstate, h]

theorem startOrder_passes {o : OrderRec} {seq : Nat} {s : State} (hstate : o.state = .confirmed seq)
    (h : startFailure o s = none) : startOrder o s = runOrder o seq s := by
  simp only [startOrder, hstate, h]

/-! ## The record becomes RUNNING (R86, R118, R166) -/

theorem startCharge_found {account : Nat} {i : Fin 64} {s : State}
    (hslot : findSlot s.tables.accounts account = some i) :
    startCharge account s = fixedChargeOf s (getAt s.tables.accounts i) := by
  simp only [startCharge, hslot]

theorem enterStart_found {account : Nat} {i : Fin 64} {s : State}
    (hslot : findSlot s.tables.accounts account = some i) :
    enterStart account s = mapCounters i (chargeStart (fixedChargeOf s (getAt s.tables.accounts i))) s := by
  simp only [enterStart, hslot]

theorem sendStarted_assigned {s : State} (h : ownReach s ≠ 0) (o : OrderRec) (opening : Nat) :
    sendStarted o opening s = place .d (mkFrame ⟨ownReach s, o.turnout.val + 1⟩ ⟨ownReach s, 0⟩ 0x23
      (be 1 o.terminal ++ be 1 o.tag ++ be 1 4 ++ be 3 o.start ++ be 3 o.stop ++ be 2 opening) (isFrost o.cls)) s :=
  sendNotice_assigned h _ _ _

theorem commandedGate_timed (opening : Nat) (t : Turnout) (s : State) :
    commandedGate opening true t s = { getAt s.gates t with
      commanded := opening
      lastCommand := s.clock.seconds
      stamp := s.clock.run
      state := .moving
      replyTimer := some s.tables.timing.gateReply
      travelTimer := some (getAt s.tables.turnouts t).travelLimit } := rfl

/-- The record in RUNNING with its charge, and the charge entered in the account's counters. -/
def startedOrder (o : OrderRec) (seq : Nat) (i : Fin 64) (s : State) : State :=
  let amount := fixedChargeOf s (getAt s.tables.accounts i)
  let c := getAt s.metering.counters i
  { s with
    orders := setOrderState o.tag (.running seq 0 amount) s.orders
    metering := { s.metering with counters := putAt s.metering.counters i { c with
      orderCount := min 65535 (c.orderCount + 1)
      fixedCharges := min 281474976710655 (c.fixedCharges + amount)
      charge := min 281474976710655 (c.charge + amount) } } }

theorem enterStart_running {o : OrderRec} {seq : Nat} {i : Fin 64} {s : State}
    (hslot : findSlot s.tables.accounts o.account = some i) :
    enterStart o.account { s with
      orders := setOrderState o.tag (.running seq 0 (startCharge o.account s)) s.orders } = startedOrder o seq i s := by
  rw [startCharge_found hslot, enterStart_found (by exact hslot)]
  rfl

/-- The gate of a turnout told to open: GATE SET placed, and the gate record in MOVING with both timers (R118). -/
def openedGate (t : Turnout) (opening : Nat) (marked : Bool) (s : State) : State :=
  { place .d (mkFrame ⟨ownReach s, t.val + 1⟩ ⟨ownReach s, 0⟩ 0x31 (be 2 opening) marked) s with
    gates := putAt s.gates t { getAt s.gates t with
      commanded := opening
      lastCommand := s.clock.seconds
      stamp := s.clock.run
      state := .moving
      replyTimer := some s.tables.timing.gateReply
      travelTimer := some (getAt s.tables.turnouts t).travelLimit }
    gateWaiting := s.gateWaiting.filter fun x => x != t }

theorem requestOpening_assigned {t : Turnout} {s : State} (h : ownReach s ≠ 0)
    (hfault : ∀ c, (getAt s.gates t).state ≠ .fault c) (opening : Nat) (cls : OrderClass) :
    requestOpening t opening cls s = openedGate t opening (isFrost cls) s := by
  rw [requestOpening_no_fault hfault, gateSet_assigned h, commandedGate_timed]
  rfl

/-- An order that starts at a gate not in FAULT: its charge, the GATE SET with the initial opening, and STARTED. -/
theorem runOrder_assigned {o : OrderRec} {i : Fin 64} {s : State} (seq : Nat) (h : ownReach s ≠ 0)
    (hslot : findSlot s.tables.accounts o.account = some i) (hfault : ∀ c, (getAt s.gates o.turnout).state ≠ .fault c)
    {opening : Nat} (hopening : initialOpening o.rate (getAt s.tables.turnouts o.turnout).maxRate = opening) :
    runOrder o seq s = raiseDue (place .d (mkFrame ⟨ownReach s, o.turnout.val + 1⟩ ⟨ownReach s, 0⟩ 0x23
      (be 1 o.terminal ++ be 1 o.tag ++ be 1 4 ++ be 3 o.start ++ be 3 o.stop ++ be 2 opening) (isFrost o.cls))
      (openedGate o.turnout opening (isFrost o.cls) (startedOrder o seq i s))) := by
  rw [runOrder, hopening, enterStart_running hslot, requestOpening_assigned (by exact h) (by exact hfault),
    sendStarted_assigned (by exact h)]
  rfl

/-- Settles O38: the first start check that fails names the cause; where none fails the record is RUNNING. -/
theorem startIsTaken : Obligations.StartIsTaken := by
  refine ⟨fun t opening cls s ⟨c, hfault⟩ => requestOpening_fault hfault opening cls, ?_⟩
  intro o seq rest i s hrun ha hraised ho hstate hslot a g popped needed limit passed ends
  have htaken : exec .startReached s = .next (startOrder o popped) := exec_startReached hrun hraised ho hstate
  have hends : ∀ cause, startFailure o popped = some cause → ends cause := fun cause h =>
    htaken.trans (congrArg _ (startOrder_fails hstate h))
  have hallowed : startAllowed o popped = decide (needed ≤ limit) := by
    rw [startAllowed_found (s := popped) hslot, classLimit_eq]
  refine ⟨fun hp => hends _ (startFailure_completed hp), fun hp hover => ?_, fun hp hwithin hunready => ?_,
    fun hp hwithin hready hfault => ?_, fun hp hwithin hready hfault => ?_⟩
  · rw [decide_eq_false (Nat.not_le.2 hover)] at hallowed
    exact hends _ (startFailure_allotment hp hallowed)
  all_goals rw [decide_eq_true hwithin] at hallowed
  · exact hends _ (startFailure_lockedOut hp hallowed hunready)
  · exact hends _ (startFailure_gateFault hp hallowed hready hfault)
  · have hnone : startFailure o popped = none := startFailure_none hp hallowed hready hfault
    exact htaken.trans (congrArg Host.Outcome.next ((startOrder_passes hstate hnone).trans
      (runOrder_assigned (s := popped) seq (assigned_ne_zero ha) hslot hfault rfl)))

end Sys2Proof.Machine

/-! PROOFS. The carriage unit: answers that pass down, a RELEASE that passes up, and expiry (O41, O42, O43). -/

namespace Sys2Proof.Machine

open Sys2Proof.Safety

/-! ## The record of a key, and its booked times (R97, R98) -/

theorem hasKey_iff {reach tag : Nat} {r : CarriageRec} :
    hasKey reach tag r = true ↔ r.originReach = reach ∧ r.originTag = tag := by
  simp [hasKey]

theorem mem_dropCarriage_list {reach tag : Nat} {u : CarriageUnit} {r : CarriageRec} :
    r ∈ (dropCarriage reach tag u).list ↔ r ∈ u.list ∧ ¬ (r.originReach = reach ∧ r.originTag = tag) := by
  rw [← hasKey_iff]
  simp [dropCarriage, unbookCarriage]

/-- A changed record no longer books its earlier time; the records of other keys stay as they are. -/
theorem changeCarriage_eq (reach tag : Nat) (f : CarriageRec → CarriageRec) (u : CarriageUnit) :
    changeCarriage reach tag f u = { u with
      list := u.list.map fun r => if r.originReach = reach ∧ r.originTag = tag then f r else r
      raised := u.raised.filter fun e => !(e.originReach == reach && e.originTag == tag) } := by
  simp only [changeCarriage, unbookCarriage, hasKey_iff]

/-! ## The key of a carriage frame's body (R101) -/

theorem parseKey_malformed {n len : Nat} {body : List Byte}
    (h : body.length ≠ len ∨ field body 0 1 ≤ n ∨ 249 < field body 0 1) : parseKey n len body = none :=
  if_neg (by omega)

/-- A body that begins with a key of a reach below the part, and has the length of its kind, is read as that key. -/
theorem parseKey_key {n len reach tag : Nat} {rest : List Byte} (hlen : rest.length + 2 = len) (hn : n < reach)
    (hr : reach ≤ 249) (ht : tag < 256) : parseKey n len (be 1 reach ++ be 1 tag ++ rest) = some (reach, tag) := by
  obtain ⟨hreach, htag⟩ := field_answer rest (hr.trans_lt (by decide)) ht
  have hlength : (be 1 reach ++ be 1 tag ++ rest).length = len := by
    simp only [List.length_append, be_length]
    omega
  rw [parseKey, hreach, htag, if_pos ⟨hlength, hn, hr⟩]

/-! ## CONFIRM and REFUSE passing down (R107, R108) -/

theorem findTentative_tentative {reach tag d : Nat} {s : State} {r : CarriageRec}
    (hr : findCarriage reach tag s = some r) (hd : r.state = .tentative d) : findTentative reach tag s = some r := by
  simp [findTentative, hr, hd]

/-- A FIRM record, as a missing one, awaits no answer. -/
theorem findTentative_firm_or_missing {reach tag : Nat} {s : State}
    (h : ∀ r, findCarriage reach tag s = some r → r.state = .firm) : findTentative reach tag s = none := by
  cases hr : findCarriage reach tag s with
  | none => simp [findTentative, hr]
  | some r => simp [findTentative, hr, h r hr]

theorem passConfirm_malformed {f : Frame} {s : State} (h : parseKey (ownReach s) 2 f.body = none) :
    passConfirm f s = countUnmatched s := by
  simp only [passConfirm, h]

theorem passConfirm_key {f : Frame} {s : State} {reach tag : Nat}
    (h : parseKey (ownReach s) 2 f.body = some (reach, tag)) :
    passConfirm f s = if (findTentative reach tag s).isSome then firmCarriage reach tag s else countUnmatched s := by
  simp only [passConfirm, h]

theorem passRefuse_malformed {f : Frame} {s : State} (h : parseKey (ownReach s) 4 f.body = none) :
    passRefuse f s = countUnmatched s := by
  simp only [passRefuse, h]

theorem passRefuse_key {f : Frame} {s : State} {reach tag : Nat}
    (h : parseKey (ownReach s) 4 f.body = some (reach, tag)) :
    passRefuse f s = if (findTentative reach tag s).isSome then removeCarriage reach tag s else countUnmatched s := by
  simp only [passRefuse, h]

/-- Settles O41: a body without a key is unmatched; one with a key by whether its record is TENTATIVE. -/
theorem answersPassDown : Obligations.AnswersPassDown := by
  refine ⟨fun src dst m body s hrun ha hd hd' hs => ⟨fun hbad => ?_, fun hbad => ?_⟩, ?_⟩
  · rw [exec_confirmPassing hrun ha hd hd' hs, passConfirm_malformed (parseKey_malformed hbad)]
  · rw [exec_refusePassing hrun ha hd hd' hs, passRefuse_malformed (parseKey_malformed hbad)]
  · intro src dst m reach tag refusing reason s hrun ha hd hd' hs hn hr ht confirm refuse onC onR
    have hconfirm : exec (.confirmPassing src dst m confirm) s = onC
        (if (findTentative reach tag s).isSome then firmCarriage reach tag s else countUnmatched s) := by
      have hkey : parseKey (ownReach s) 2 confirm = some (reach, tag) :=
        List.append_nil confirm ▸ parseKey_key rfl hn hr ht
      rw [exec_confirmPassing hrun ha hd hd' hs, passConfirm_key hkey]
    have hrefuse : exec (.refusePassing src dst m refuse) s = onR
        (if (findTentative reach tag s).isSome then removeCarriage reach tag s else countUnmatched s) := by
      have hkey : parseKey (ownReach s) 4 refuse = some (reach, tag) := parseKey_key rfl hn hr ht
      rw [exec_refusePassing hrun ha hd hd' hs, passRefuse_key hkey]
    refine ⟨fun r d hfound hstate => ?_, fun hnone => ?_⟩
    · rw [hconfirm, hrefuse, findTentative_tentative hfound hstate]
      exact ⟨rfl, rfl⟩
    · rw [hconfirm, hrefuse, findTentative_firm_or_missing hnone]
      exact ⟨rfl, rfl⟩

/-! ## RELEASE passing up (R110) -/

theorem field_releaseBytes_time {reach tag time : Nat} (h : time < 16777216) :
    field (releaseBytes reach tag time) 2 3 = time := by
  simp [releaseBytes, field_append_right, field_be, h]

theorem passRelease_malformed {f : Frame} {s : State} (h : parseKey (ownReach s) 5 f.body = none) :
    passRelease f s = (countUnmatched s, f) := by
  simp only [passRelease, h]

theorem passRelease_key {f : Frame} {s : State} {reach tag : Nat}
    (h : parseKey (ownReach s) 5 f.body = some (reach, tag)) :
    passRelease f s = (releaseRecord reach tag (shifted s (field f.body 2 3)) s,
      rebody (releaseBytes reach tag (shifted s (field f.body 2 3))) f) := by
  simp only [passRelease, h]

theorem releaseRecord_missing {reach tag t : Nat} {s : State} (hr : findCarriage reach tag s = none) :
    releaseRecord reach tag t s = countUnmatched s := by
  simp only [releaseRecord, hr]

theorem releaseRecord_tentative {reach tag t d : Nat} {s : State} {r : CarriageRec}
    (hr : findCarriage reach tag s = some r) (hd : r.state = .tentative d) :
    releaseRecord reach tag t s = removeCarriage reach tag s := by
  simp only [releaseRecord, hr, hd]

theorem releaseRecord_firm {reach tag t : Nat} {s : State} {r : CarriageRec}
    (hr : findCarriage reach tag s = some r) (hf : r.state = .firm) :
    releaseRecord reach tag t s = if r.start < t then shortenCarriage reach tag t s else removeCarriage reach tag s := by
  simp only [releaseRecord, hr, hf]

/-- A well-formed RELEASE does its work on its record at the shifted time, and goes on up with that time. -/
theorem exec_release_key {src dst : Addr} {reach tag time : Nat} {s : State} (hrun : Runs s) (ha : Assigned s)
    (hd : dst.reach < ownReach s) (hs : dst.station < 19) (hn : ownReach s < reach) (hr : reach ≤ 249) (ht : tag < 256)
    (htime : time < 16777216) (m : Bool) :
    exec (.release src dst m (releaseBytes reach tag time)) s =
      .next (place .u (mkFrame dst src 0x54 (releaseBytes reach tag (shifted s time)) m)
        (releaseRecord reach tag (shifted s time) s)) := by
  have hkey : parseKey (ownReach s) 5 (releaseBytes reach tag time) = some (reach, tag) := parseKey_key rfl hn hr ht
  rw [exec_release hrun ha hd hs, climbRelease, passRelease_key hkey]
  simp only [mkFrame, field_releaseBytes_time htime]
  rfl

/-- Settles O42: a body without a key is unmatched; one with a key by the state of its record and the shifted time. -/
theorem releasePassesUp : Obligations.ReleasePassesUp := by
  refine ⟨fun src dst m body s hrun ha hd hs hbad => ?_, ?_⟩
  · rw [exec_release hrun ha hd hs, climbRelease, passRelease_malformed (parseKey_malformed hbad)]
    rfl
  · intro src dst m reach tag time s hrun ha hd hs hn hr ht htime t body arrives onward removed cut
    have harrives : arrives = onward (releaseRecord reach tag t s) := exec_release_key hrun ha hd hs hn hr ht htime m
    rw [harrives]
    refine ⟨fun hmissing => ?_, fun r d hfound hstate => ?_, fun r hfound hfirm hstart => ?_,
      fun r hfound hfirm hstart => ?_⟩
    · rw [releaseRecord_missing hmissing]
    · rw [releaseRecord_tentative hfound hstate]
      rfl
    · rw [releaseRecord_firm hfound hfirm, if_neg (Nat.not_lt.2 hstart)]
      rfl
    · rw [releaseRecord_firm hfound hfirm, if_pos hstart]
      rfl

/-! ## Expiry (R112, R113) -/

/-- The first raised event, taken by the command of its own kind, removes the record of its key. -/
theorem takeCarriageEvent_first {k : CarriageEventKind} {reach tag : Nat} {rest : List CarriageEvent} {s : State}
    (h : s.carriage.raised = ⟨k, reach, tag⟩ :: rest) :
    takeCarriageEvent k s = { s with carriage := dropCarriage reach tag s.carriage } := by
  simp only [takeCarriageEvent, h, if_true]
  rfl

theorem exec_carriageHoldDeadlineReached {s : State} (hrun : Runs s) :
    exec .carriageHoldDeadlineReached s = .next (takeCarriageEvent .holdDeadline s) :=
  congrArg Host.Outcome.next (whileRunning_runs hrun)

theorem exec_windowEndReached {s : State} (hrun : Runs s) :
    exec .windowEndReached s = .next (takeCarriageEvent .windowEnd s) :=
  congrArg Host.Outcome.next (whileRunning_runs hrun)

/-- Settles O43: the event at the front removes the records of its key, and those alone. -/
theorem carriageExpires : Obligations.CarriageExpires := by
  refine ⟨fun reach tag u => ⟨rfl, fun f => changeCarriage_eq reach tag f u⟩, fun reach tag rest s hrun => ?_⟩
  refine ⟨fun hraised => ?_, fun hraised => ?_, fun r hr => ?_, fun r hr hkey => ?_⟩
  · rw [exec_carriageHoldDeadlineReached hrun, takeCarriageEvent_first hraised]
  · rw [exec_windowEndReached hrun, takeCarriageEvent_first hraised]
  · exact (mem_dropCarriage_list.1 hr).2
  · exact mem_dropCarriage_list.2 ⟨hr, hkey⟩

end Sys2Proof.Machine

/-! PROOFS. BILL READ (O26). -/

namespace Sys2Proof.Machine

open Sys2Proof.Safety

/-! ## The two parts of a bill (section 9.5) -/

/-- The flags byte adds 1 for HELD and 2 for VOID. -/
theorem billFlags_eq (b : Bill) :
    billFlags b = (if b.heldUntil.isSome = true then 1 else 0) + (if b.void = true then 2 else 0) := by
  unfold billFlags flagNat
  cases b.void <;> rfl

/-- Part 1 ends with its flags, and after them the held-until of a bill that has one. -/
theorem billPart_one (b : Bill) :
    billPart 1 b = be 2 b.account ++ be 2 b.period ++ be 4 b.runOutVol ++ be 2 b.orderCount ++ be 6 b.fixedCharges
      ++ be 6 b.charge
      ++ be 1 ((if b.heldUntil.isSome = true then 1 else 0) + (if b.void = true then 2 else 0))
      ++ (match b.heldUntil with | none => [] | some (period, seconds) => be 2 period ++ be 3 seconds) := by
  rw [← billFlags_eq]
  show billPart1 b = _
  unfold billPart1
  cases b.heldUntil <;> rfl

/-! ## A BILL READ that is acted on is its own rule's work (R31, R175) -/

theorem exec_billReadPeek_acted {q : Byte} {s : State} (h : ActedOn 0x78 q s) (index part : Byte) :
    exec (.billReadPeek q index part) s = .next (actBillRead [q, 0, index, part] s) :=
  congrArg Host.Outcome.next (requestOf_acted h rfl)

theorem exec_billReadCollect_acted {q : Byte} {s : State} (h : ActedOn 0x78 q s) (index part : Byte) :
    exec (.billReadCollect q index part) s = .next (actBillRead [q, 1, index, part] s) :=
  congrArg Host.Outcome.next (requestOf_acted h rfl)

/-! ## The tests of a body, in the order of R175 -/

theorem actBillRead_malformed {body : List Byte} (s : State)
    (h : body.length ≠ 4 ∨ 1 < field body 1 1 ∨ 1 < field body 3 1) :
    actBillRead body s = refuse (requestNumber body) 0x78 1 s :=
  if_pos h

theorem actBillRead_badPart (q mode index : Byte) {part : Byte} (s : State) (h : 1 < part.toNat) :
    actBillRead [q, mode, index, part] s = refuse q 0x78 1 s :=
  actBillRead_malformed s (.inr (.inr (by simpa using h)))

/-- A body of four bytes whose mode and part are 0 or 1 passes the first test. -/
theorem billRead_formed (q index : Byte) {mode part : Byte} (hmode : mode.toNat ≤ 1) (hpart : part.toNat ≤ 1) :
    ¬ ([q, mode, index, part].length ≠ 4 ∨ 1 < field [q, mode, index, part] 1 1
      ∨ 1 < field [q, mode, index, part] 3 1) := by
  simp [hmode, hpart]

theorem actBillRead_empty (q index : Byte) {mode part : Byte} {s : State} (hmode : mode.toNat ≤ 1)
    (hpart : part.toNat ≤ 1) (hbills : s.billing.bills = []) :
    actBillRead [q, mode, index, part] s = answer q 0x78 0x7D [q, 0x78, 5] s := by
  rw [actBillRead, if_neg (billRead_formed q index hmode hpart), hbills]
  rfl

theorem actBillRead_holding (q index : Byte) {mode part : Byte} {b : Bill} {rest : List Bill} {s : State}
    (hmode : mode.toNat ≤ 1) (hpart : part.toNat ≤ 1) (hbills : s.billing.bills = b :: rest) :
    actBillRead [q, mode, index, part] s = readBill q mode.toNat index.toNat part.toNat b rest s := by
  rw [actBillRead, if_neg (billRead_formed q index hmode hpart), hbills]
  simp only [field_cons_succ, field_cons_zero_one]
  rfl

/-! ## A list that holds a bill: PEEK at an index, COLLECT of the oldest (R175, R176) -/

/-- The body of BILL DATA begins with the request, the mode and the part as they were sent. -/
theorem billDataBody_byte (q part : Byte) (mode held : Nat) (b : Bill) :
    billDataBody q mode part.toNat held b =
      [q, BitVec.ofNat 8 mode, part] ++ be 1 held ++ billPart part.toNat b := by
  simp [billDataBody, be_one]

theorem readBill_peek_found (q part : Byte) {index : Nat} (first : Bill) (rest : List Bill) {b : Bill} {s : State}
    (h : s.billing.bills[index]? = some b) :
    readBill q 0 index part.toNat first rest s =
      answer q 0x78 0x79 ([q, 0, part] ++ be 1 s.billing.bills.length ++ billPart part.toNat b) s := by
  have hpeek : readBill q 0 index part.toNat first rest s = peekBill q part.toNat b s := by simp [readBill, h]
  rw [hpeek, peekBill, billDataBody_byte]
  rfl

theorem readBill_peek_absent (q part : Byte) {index : Nat} (first : Bill) (rest : List Bill) {s : State}
    (h : s.billing.bills.length ≤ index) :
    readBill q 0 index part.toNat first rest s = refuse q 0x78 3 s := by
  simp [readBill, h]

/-- The oldest bill leaves the list before the reply, and the completion test comes after it. -/
theorem readBill_collect_oldest (q part : Byte) (b : Bill) (rest : List Bill) (s : State) :
    readBill q 1 0 part.toNat b rest s =
      testAfterCollect
        (answer q 0x78 0x79 ([q, 1, part] ++ be 1 rest.length ++ billPart part.toNat b)
          { s with billing := { s.billing with bills := rest } }) := by
  have hcollect : readBill q 1 0 part.toNat b rest s = collectBill q part.toNat b rest s := rfl
  rw [hcollect, collectBill, billDataBody_byte]
  rfl

theorem readBill_collect_other (q part : Byte) {index : Nat} (b : Bill) (rest : List Bill) (s : State)
    (h : index ≠ 0) : readBill q 1 index part.toNat b rest s = refuse q 0x78 3 s :=
  if_neg h

/-- Settles O26, by the tests of R175 in their order, for a PEEK and for a COLLECT. -/
theorem billReads : Obligations.BillReads := by
  refine ⟨⟨fun b => ⟨rfl, billPart_one b⟩, fun _ => rfl⟩, fun q part s h => ?_⟩
  have hpeek := exec_billReadPeek_acted h
  have hcollect := exec_billReadCollect_acted h
  refine ⟨fun body hq hbad => ?malformed, fun index hpart => ?badPart, fun hpart index hbills => ?empty,
    fun hpart index b hb => ?peekFound, fun hpart index hne hlen => ?peekAbsent,
    fun hpart b rest hbills => ⟨?collectOldest, fun index hindex => ?collectOther⟩⟩
  case malformed =>
    rw [takeRequest_acted h hq, ← hq]
    exact actBillRead_malformed s hbad
  case badPart =>
    rw [hpeek, hcollect, actBillRead_badPart q 0 index s hpart, actBillRead_badPart q 1 index s hpart]
    exact ⟨rfl, rfl⟩
  case empty =>
    rw [hpeek, hcollect, actBillRead_empty q index (by decide) hpart hbills,
      actBillRead_empty q index (by decide) hpart hbills]
    exact ⟨rfl, rfl⟩
  case peekFound =>
    have hne : s.billing.bills ≠ [] := List.ne_nil_of_mem (List.mem_of_getElem? hb)
    obtain ⟨first, rest, hbills⟩ := List.exists_cons_of_ne_nil hne
    rw [hpeek, actBillRead_holding q index (by decide) hpart hbills]
    exact congrArg _ (readBill_peek_found q part first rest hb)
  case peekAbsent =>
    obtain ⟨first, rest, hbills⟩ := List.exists_cons_of_ne_nil hne
    rw [hpeek, actBillRead_holding q index (by decide) hpart hbills]
    exact congrArg _ (readBill_peek_absent q part first rest hlen)
  case collectOldest =>
    rw [hcollect, actBillRead_holding q 0 (by decide) hpart hbills]
    exact congrArg _ (readBill_collect_oldest q part b rest s)
  case collectOther =>
    have hindex : index.toNat ≠ 0 := fun h0 => hindex (BitVec.eq_of_toNat_eq h0)
    rw [hcollect, actBillRead_holding q index (by decide) hpart hbills]
    exact congrArg _ (readBill_collect_other q part b rest s hindex)

end Sys2Proof.Machine

/-! PROOFS. What one step can do: the operations of the units that the commands are made of, and the parts of the state
that each can change. -/

namespace Sys2Proof.Machine

open Sys2Proof.Safety

/-! ## The operations -/

/-- The operations of the units that the commands are made of. -/
inductive Op where
  | forward (p : Port) (f : Frame)
  | misrouted (p : Port)
  | refusedSource (p : Port)
  | takeFrom (p : Port)
  | leaveHolding (p : Port)
  | endGap (p : Port)
  | captureSaturation (p : Port)
  | inactiveEdge (p : Port) (width : Nat)
  | activeEdge (p : Port)
  | transmitStart (p : Port) (quiet : Nat)
  | transmitEnd (p : Port)
  | talkerClash (p : Port)
  | order (t : Turnout) (body : List Byte)
  | cancel (t : Turnout) (body : List Byte)
  | report (t : Turnout) (body : List Byte)
  | reading (x : Station) (body : List Byte)
  | confirm (body : List Byte)
  | refuse (body : List Byte)
  | time (body : List Byte)
  | frostCall (body : List Byte)
  | curtail (body : List Byte)
  | resend (r : LastReply)
  | busyPending (kind : Nat) (body : List Byte)
  | tableWrite (body : List Byte)
  | tableRead (body : List Byte)
  | storeCommit (body : List Byte)
  | statusRead (body : List Byte)
  | eventClear (body : List Byte)
  | billRead (body : List Byte)
  | orderRead (body : List Byte)
  | command (body : List Byte)
  | passDemand (f : Frame)
  | passConfirm (f : Frame)
  | passRefuse (f : Frame)
  | passRelease (f : Frame)
  | tick
  | frostEnd
  | periodClose
  | holdDeadline
  | startReached
  | endReached
  | carriageEvent (k : CarriageEventKind)
  | replyTimeout (t : Turnout)
  | travelTimeout (t : Turnout)
  | intervalExpiry
  | pollTimeout
  | operationEnd (passed : Bool)
  | supplyMoves (level : Nat)
  | finishLoading

/-- What an operation makes of a state. -/
def Op.run (o : Op) (s : State) : State :=
  match o with
  | .forward p f => Machine.forward p f s
  | .misrouted p => countMisrouted p s
  | .refusedSource p => countRefusedSource p s
  | .takeFrom p => { s with lastTaken := some p }
  | .leaveHolding p => Machine.leaveHolding p s
  | .endGap p => Machine.endGap p s
  | .captureSaturation p => Machine.captureSaturation p s
  | .inactiveEdge p width => Machine.inactiveEdge p width s
  | .activeEdge p => Machine.activeEdge p s
  | .transmitStart p quiet => Machine.transmitStart p quiet s
  | .transmitEnd p => Machine.transmitEnd p s
  | .talkerClash p => Machine.talkerClash p s
  | .order t body => takeOrder t body s
  | .cancel t body => takeCancel t body s
  | .report t body => takeReport t body s
  | .reading x body => takeHeadReading x body s
  | .confirm body => takeConfirm body s
  | .refuse body => takeRefuse body s
  | .time body => takeTime body s
  | .frostCall body => takeFrostCall body s
  | .curtail body => takeCurtail body s
  | .resend r => Machine.resend r s
  | .busyPending kind body => Machine.busyPending kind body s
  | .tableWrite body => actTableWrite body s
  | .tableRead body => actTableRead body s
  | .storeCommit body => actStoreCommit body s
  | .statusRead body => actStatusRead body s
  | .eventClear body => actEventClear body s
  | .billRead body => actBillRead body s
  | .orderRead body => actOrderRead body s
  | .command body => actCommand body s
  | .passDemand f => (Machine.passDemand f s).1
  | .passConfirm f => Machine.passConfirm f s
  | .passRefuse f => Machine.passRefuse f s
  | .passRelease f => (Machine.passRelease f s).1
  | .tick => Machine.tick s
  | .frostEnd => Machine.frostEnd s
  | .periodClose => periodCloseEvent s
  | .holdDeadline => takeOrderEvent .holdDeadline lapse s
  | .startReached => takeOrderEvent .startReached startOrder s
  | .endReached => takeOrderEvent .endReached (endOrder .completed) s
  | .carriageEvent k => takeCarriageEvent k s
  | .replyTimeout t => Machine.replyTimeout t s
  | .travelTimeout t => Machine.travelTimeout t s
  | .intervalExpiry => Machine.intervalExpiry s
  | .pollTimeout => Machine.pollTimeout s
  | .operationEnd passed => Machine.operationEnd passed s
  | .supplyMoves level => Machine.supplyMoves level s
  | .finishLoading => Machine.finishLoading s

/-- An ORDER reaches the order unit of an assigned part alone (R17, R18). -/
def Op.Reaches (o : Op) (s : State) : Prop :=
  match o with
  | .order _ _ => ownReach s ≠ 0
  | _ => True

/-! ## The parts that an operation can change -/

/-- The parts that the replies, the reads and the clearing of flags can change. -/
abbrev replyParts : List Part := [.comms, .mgmt, .free]

/-- The parts that a STORE COMMIT or a COMMAND can change. -/
abbrev commandParts : List Part := [.comms, .mgmt, .billing, .store, .free]

/-- Every part: a restart changes them all. -/
abbrev allParts : List Part :=
  [.comms, .lastTaken, .clock, .tables, .orders, .carriage, .gates, .gateWaiting, .scan, .metering, .billing, .mgmt,
    .store, .supply, .loading, .free]

/-- The parts that an operation can change. -/
def Op.parts : Op → List Part
  | .forward _ _ | .misrouted _ | .refusedSource _ | .leaveHolding _ => [.comms]
  | .takeFrom _ => [.lastTaken]
  | .endGap _ | .captureSaturation _ | .inactiveEdge _ _ | .activeEdge _ | .transmitEnd _ | .talkerClash _ => [.comms]
  | .transmitStart _ _ => gateParts
  | .order _ _ | .cancel _ _ | .confirm _ | .refuse _ | .holdDeadline | .startReached | .endReached => orderParts
  | .report _ _ | .replyTimeout _ | .travelTimeout _ => endParts
  | .reading _ _ => readingParts
  | .time _ | .frostCall _ | .tick | .frostEnd => clockParts
  | .curtail _ => drawParts
  | .resend _ | .busyPending _ _ | .tableRead _ | .statusRead _ | .eventClear _ | .orderRead _ => replyParts
  | .tableWrite _ => requestParts
  | .storeCommit _ | .command _ => commandParts
  | .billRead _ => .mgmt :: closeParts
  | .passDemand _ | .passConfirm _ | .passRefuse _ | .passRelease _ | .carriageEvent _ => carriageParts
  | .periodClose => closeParts
  | .intervalExpiry | .pollTimeout => scanParts
  | .operationEnd _ | .supplyMoves _ | .finishLoading => allParts

theorem keeps_allParts {s t : State} (h : t.pending = s.pending) : Keeps allParts s t :=
  ⟨h, fun p hp => by cases p <;> simp at hp⟩

theorem busyPending_within (k : Nat) (b : List Byte) (s : State) : Within [.comms, .free] s (busyPending k b s) :=
  ((free_within _ s).mono (by decide)).trans ((busy_within _ _ _ _).mono (by decide))

theorem actStoreCommit_parts (b : List Byte) (s : State) : Within commandParts s (actStoreCommit b s) := by
  unfold actStoreCommit
  dsimp only
  split
  · exact (refuse_within _ _ _ _).mono (by decide)
  · refine within_ite ((refuse_within _ _ _ _).mono (by decide))
      (within_ite ((busy_within _ _ _ _).mono (by decide)) ?_)
    exact ((reply_within _ _ _ _ _).mono (by decide)).trans ((beginWrite_within _ _ _ _ _).mono (by decide))

theorem setMgmt_within (m : MgmtState) (s : State) : Within [.mgmt] s (setMgmt m s) := mgmt_within _ s

theorem actCommand_parts (b : List Byte) (s : State) : Within commandParts s (actCommand b s) := by
  have hm : ∀ m, Within commandParts s (setMgmt m s) := fun m => (setMgmt_within m s).mono (by decide)
  have hr : ∀ q k r x (t : State), Within commandParts t (reply q k r x t) := fun _ _ _ _ _ =>
    (reply_within _ _ _ _ _).mono (by decide)
  unfold actCommand
  dsimp only
  refine within_ite (hr _ _ _ _ _) ?_
  split
  · exact ((hm _).trans (hr _ _ _ _ _)).trans ((requestSnapshot_within _).mono (by decide))
  · exact ((billing_within _ s).mono (by decide)).trans (hr _ _ _ _ _)
  · exact within_ite (((hm _).trans (hr _ _ _ _ _)).trans ((requestWipe_within _).mono (by decide))) (hr _ _ _ _ _)
  · exact hr _ _ _ _ _

theorem actBillRead_parts (b : List Byte) (s : State) : Within (.mgmt :: closeParts) s (actBillRead b s) := by
  have hr : ∀ q k r x (t : State), Within (.mgmt :: closeParts) t (answer q k r x t) := fun _ _ _ _ _ =>
    (answer_within _ _ _ _ _).mono (by decide)
  unfold actBillRead
  dsimp only
  refine within_ite (hr _ _ _ _ _) ?_
  split
  · exact hr _ _ _ _ _
  · unfold readBill
    refine within_ite (within_ite ?_ (hr _ _ _ _ _)) ?_
    · exact (((billing_within _ s).mono (by decide)).trans (hr _ _ _ _ _)).trans
        ((testAfterCollect_within _).mono (by decide))
    · split
      · exact hr _ _ _ _ _
      · exact hr _ _ _ _ _

/-- An operation leaves the queue of commands and every part but its own alone. -/
theorem Op.run_keeps (o : Op) (s : State) : Keeps o.parts s (o.run s) := by
  cases o with
  | forward p f => exact (forward_within p f s).toKeeps
  | misrouted p => exact (countMisrouted_within p s).toKeeps
  | refusedSource p => exact (countRefusedSource_within p s).toKeeps
  | takeFrom p => exact ⟨rfl, fun q hq => by cases q <;> first | rfl | simp [Op.parts] at hq⟩
  | leaveHolding p => exact mapUnit_keeps p (fun x => { x with holding := x.holding.tail }) s
  | endGap p => exact endGap_keeps p s
  | captureSaturation p => exact captureSaturation_keeps p s
  | inactiveEdge p width => exact inactiveEdge_keeps p width s
  | activeEdge p => exact activeEdge_keeps p s
  | transmitStart p quiet => exact transmitStart_keeps p quiet s
  | transmitEnd p => exact transmitEnd_keeps p s
  | talkerClash p => exact talkerClash_keeps p s
  | order t b => exact (takeOrder_within t b s).toKeeps
  | cancel t b => exact (takeCancel_within t b s).toKeeps
  | report t b => exact (takeReport_within t b s).toKeeps
  | reading x b => exact (takeHeadReading_within x b s).toKeeps
  | confirm b => exact (takeConfirm_within b s).toKeeps
  | refuse b => exact (takeRefuse_within b s).toKeeps
  | time b => exact (takeTime_within b s).toKeeps
  | frostCall b => exact (takeFrostCall_within b s).toKeeps
  | curtail b => exact (takeCurtail_within b s).toKeeps
  | resend r => exact (resend_within r s).toKeeps.mono (qs := replyParts) (by decide)
  | busyPending k b => exact (busyPending_within k b s).toKeeps.mono (qs := replyParts) (by decide)
  | tableWrite b => exact actTableWrite_keeps b s
  | tableRead b => exact (actTableRead_within b s).toKeeps.mono (qs := replyParts) (by decide)
  | storeCommit b => exact (actStoreCommit_parts b s).toKeeps
  | statusRead b => exact (actStatusRead_within b s).toKeeps.mono (qs := replyParts) (by decide)
  | eventClear b => exact (actEventClear_within b s).toKeeps.mono (qs := replyParts) (by decide)
  | billRead b => exact (actBillRead_parts b s).toKeeps
  | orderRead b => exact (actOrderRead_within b s).toKeeps.mono (qs := replyParts) (by decide)
  | command b => exact (actCommand_parts b s).toKeeps
  | passDemand f => exact (passDemand_within f s).toKeeps
  | passConfirm f => exact (passConfirm_within f s).toKeeps
  | passRefuse f => exact (passRefuse_within f s).toKeeps
  | passRelease f => exact (passRelease_within f s).toKeeps
  | tick => exact (tick_within s).toKeeps
  | frostEnd => exact (frostEnd_within s).toKeeps
  | periodClose => exact (periodCloseEvent_within s).toKeeps
  | holdDeadline => exact (takeOrderEvent_within _ lapse_within s).toKeeps
  | startReached => exact (takeOrderEvent_within _ startOrder_within s).toKeeps
  | endReached => exact (takeOrderEvent_within _ (fun o t => (endOrder_within _ o t).mono (by decide)) s).toKeeps
  | carriageEvent k => exact (takeCarriageEvent_within k s).toKeeps
  | replyTimeout t => exact (replyTimeout_within t s).toKeeps
  | travelTimeout t => exact (travelTimeout_within t s).toKeeps
  | intervalExpiry => exact (intervalExpiry_within s).toKeeps
  | pollTimeout => exact (pollTimeout_within s).toKeeps
  | operationEnd passed => exact keeps_allParts (operationEnd_pending passed s)
  | supplyMoves level => exact keeps_allParts (supplyMoves_pending level s)
  | finishLoading => exact keeps_allParts (finishLoading_pending s)

/-- An operation keeps what it does not change. -/
theorem Op.run_same {o : Op} {p : Part} (s : State) (h : p ∉ o.parts) : Same p s (o.run s) := (o.run_keeps s).keeps p h

/-! ## A step is made of operations -/

section

variable {P : State → Prop}

/-- The management unit's work on a request is one operation. -/
theorem takeRequest_induct (hrun : ∀ o s, Op.Reaches o s → P s → P (o.run s)) (k : Nat) (b : List Byte) {s : State}
    (hs : P s) : P (takeRequest k b s) := by
  unfold takeRequest
  split
  next r _ => exact hrun (.resend r) s trivial hs
  next =>
    split
    · exact hrun (.busyPending k b) s trivial hs
    · unfold act
      split_ifs
      · exact hrun (.tableWrite b) s trivial hs
      · exact hrun (.tableRead b) s trivial hs
      · exact hrun (.storeCommit b) s trivial hs
      · exact hrun (.statusRead b) s trivial hs
      · exact hrun (.eventClear b) s trivial hs
      · exact hrun (.billRead b) s trivial hs
      · exact hrun (.orderRead b) s trivial hs
      · exact hrun (.command b) s trivial hs
      · exact hs

theorem deliverDown_induct (hrun : ∀ o s, Op.Reaches o s → P s → P (o.run s)) (f : Frame) {s : State}
    (h0 : ownReach s ≠ 0) (hs : P s) : P (deliverDown f s) := by
  have hdrop : P (countRefusedSource .d s) := hrun (.refusedSource .d) s trivial hs
  unfold deliverDown
  split
  · exact hdrop
  · split
    · split
      next x _ => exact hrun (.reading x f.body) s trivial hs
      next => exact hdrop
    · split
      next t _ =>
        unfold deliverTurnout
        split_ifs
        · exact hrun (.order t f.body) s h0 hs
        · exact hrun (.cancel t f.body) s trivial hs
        · exact hrun (.report t f.body) s trivial hs
        · exact hdrop
      next => exact hdrop

theorem deliverUp_induct (hrun : ∀ o s, Op.Reaches o s → P s → P (o.run s)) (f : Frame) {s : State} (hs : P s) :
    P (deliverUp f s) := by
  have hdrop : P (countRefusedSource .u s) := hrun (.refusedSource .u) s trivial hs
  unfold deliverUp deliverAnswer deliverOffice
  dsimp only
  split_ifs
  · exact hdrop
  · exact hrun (.confirm f.body) s trivial hs
  · exact hrun (.refuse f.body) s trivial hs
  · exact hrun (.time f.body) s trivial hs
  · exact hrun (.frostCall f.body) s trivial hs
  · exact hrun (.curtail f.body) s trivial hs
  · exact takeRequest_induct hrun f.kind f.body hs
  · exact hdrop
  · exact hdrop

/-- The router's work on a frame is made of operations. -/
theorem work_induct (hrun : ∀ o s, Op.Reaches o s → P s → P (o.run s)) (p : Port) (f : Frame) {s : State} (hs : P s) :
    P (work p f s) := by
  have hforward : ∀ q g {t : State}, P t → P (forward q g t) := fun q g t ht => hrun (.forward q g) t trivial ht
  have hmisrouted : ∀ q, P (countMisrouted q s) := fun q => hrun (.misrouted q) s trivial hs
  unfold work
  split
  · cases p with
    | d => exact hforward _ _ hs
    | u =>
      unfold routeUnassigned
      dsimp only
      split
      · exact takeRequest_induct hrun f.kind f.body hs
      · exact hforward _ _ hs
  next h0 =>
    cases p with
    | u =>
      dsimp only [routeUp, descend]
      split_ifs
      · exact hforward _ _ (deliverUp_induct hrun f hs)
      · exact hmisrouted _
      · exact hs
      · exact hmisrouted _
      · exact deliverUp_induct hrun f hs
      · exact hforward _ _ hs
      · exact hforward _ _ (hrun (.passConfirm f) s trivial hs)
      · exact hforward _ _ (hrun (.passRefuse f) s trivial hs)
      · exact hforward _ _ hs
    | d =>
      dsimp only [routeDown, climb, climbRelease]
      split_ifs
      · exact hmisrouted _
      · exact deliverDown_induct hrun f h0 hs
      · exact hmisrouted _
      · have hpassed : P (passDemand f s).1 := hrun (.passDemand f) s trivial hs
        unfold climbDemand
        split
        · exact hforward _ _ hpassed
        · exact hpassed
      · exact hforward _ _ (hrun (.passRelease f) s trivial hs)
      · exact hforward _ _ hs

theorem routeNext_induct (hrun : ∀ o s, Op.Reaches o s → P s → P (o.run s)) {s : State} (hs : P s) :
    P (routeNext s) := by
  unfold routeNext
  split
  · exact hs
  next p _ =>
    unfold routeFrom
    split
    · exact hs
    next f _ _ =>
      exact hrun (.leaveHolding p) _ trivial (work_induct hrun p f (hrun (.takeFrom p) s trivial hs))

theorem whileRunning_induct {f : State → State} {s : State} (hs : P s) (hf : P (f s)) : P (whileRunning f s) := by
  unfold whileRunning
  split
  · exact hf
  · exact hs

/-- What every operation keeps, every command keeps. -/
theorem exec_induct (hrun : ∀ o s, Op.Reaches o s → P s → P (o.run s)) {c : Instr} {s t : State} (hs : P s)
    (h : exec c s = .next t) : P t := by
  have hop : ∀ o : Op, Op.Reaches o s → P (whileRunning o.run s) := fun o ho => whileRunning_induct hs (hrun o s ho hs)
  cases c <;> obtain rfl := Host.Outcome.next.inj h
  case endGap p => exact hop (.endGap p) trivial
  case captureSaturation p => exact hop (.captureSaturation p) trivial
  case inactiveEdge p width => exact hop (.inactiveEdge p width) trivial
  case activeEdge p => exact hop (.activeEdge p) trivial
  case transmitStart p quiet => exact hop (.transmitStart p quiet) trivial
  case transmitEnd p => exact hop (.transmitEnd p) trivial
  case talkerClash p => exact hop (.talkerClash p) trivial
  case routeFrame => exact whileRunning_induct hs (routeNext_induct hrun hs)
  case tick => exact hop .tick trivial
  case frostWindowEndReached => exact hop .frostEnd trivial
  case periodClose => exact hop .periodClose trivial
  case holdDeadlineReached => exact hop .holdDeadline trivial
  case startReached => exact hop .startReached trivial
  case endReached => exact hop .endReached trivial
  case carriageHoldDeadlineReached => exact hop (.carriageEvent .holdDeadline) trivial
  case windowEndReached => exact hop (.carriageEvent .windowEnd) trivial
  case gateReplyTimeout t => exact hop (.replyTimeout t) trivial
  case gateTravelTimeout t => exact hop (.travelTimeout t) trivial
  case scanIntervalExpiry => exact hop .intervalExpiry trivial
  case pollReplyTimeout => exact hop .pollTimeout trivial
  case storeOperationEnd passed => exact hop (.operationEnd passed) trivial
  case supplyLow level | supplyNormal level | supplyBackup level | supplyRestart level | workingMemoryLoss level =>
    exact hrun (.supplyMoves level) s trivial hs
  case loadingComplete => exact hrun .finishLoading s trivial hs
  case time | frostCall | curtail | order | orderCancel | confirmAtOrigin | refuseAtOrigin | demand | confirmPassing
      | refusePassing | release | gateReport | headReading =>
    exact whileRunning_induct hs (work_induct hrun _ _ hs)
  all_goals exact whileRunning_induct hs (takeRequest_induct hrun _ _ hs)

/-- A law that does not speak of the queue of commands, and that every operation keeps, is kept by every step. -/
theorem step_induct (hpending : ∀ s l, P s → P { s with pending := l })
    (hrun : ∀ o s, Op.Reaches o s → P s → P (o.run s)) {s t : State} (hs : P s) (h : step s = .next t) : P t := by
  unfold step at h
  split at h
  · exact Host.Outcome.next.inj h ▸ hs
  · exact exec_induct hrun (hpending _ _ hs) h

end

/-! ## Operation ends and moves of the supply, up to a restart -/

/-- Before a restart that it may end in, an operation end changes the store, the ports and the free values alone. -/
theorem operationEnd_cases (passed : Bool) (s : State) :
    ∃ x, Within [.comms, .store, .free] s x ∧ (operationEnd passed s = x
      ∨ operationEnd passed s = restartReading .commanded x ∨ operationEnd passed s = restartWiped x) := by
  have hsettled : ∀ op, Within [.comms, .store, .free] s (raiseFailed passed (settleOp op passed s)) := fun op =>
    ((settleOp_within _ _ _).mono (by decide)).trans ((raiseFailed_within _ _).mono (by decide))
  unfold operationEnd
  split
  next r _ => exact ⟨_, (afterErase_within r s).mono (by decide), .inl rfl⟩
  next r op _ _ =>
    have hnoted := (hsettled op).trans ((store_within
      { (raiseFailed passed (settleOp op passed s)).store with
        wipeFault := (raiseFailed passed (settleOp op passed s)).store.wipeFault || !passed } _).mono (by decide))
    unfold wipeWriteEnd afterWipeWrite
    cases nextRegion r with
    | some r' => exact ⟨_, hnoted.trans ((beginWipeWrite_within r' _).mono (by decide)), .inl rfl⟩
    | none => exact ⟨_, hnoted, .inr (.inr rfl)⟩
  next op _ _ _ =>
    have hreplied := (hsettled op).trans ((sendCommitEnd_within op passed _).mono (by decide))
    unfold afterOp
    split_ifs
    · exact ⟨_, hreplied, .inr (.inl rfl)⟩
    · exact ⟨_, hreplied.trans ((beginErase_within _ _).mono (by decide)), .inl rfl⟩
    · exact ⟨_, hreplied.trans ((beginSnapshot_within _).mono (by decide)), .inl rfl⟩
    · exact ⟨_, hreplied, .inl rfl⟩
  next => exact ⟨s, Within.refl _ _, .inl rfl⟩

end Sys2Proof.Machine

/-! PROOFS. Changes up to the raising of reached times, and the form of an accepted table write (O55..O60). -/

namespace Sys2Proof.Machine

open Sys2Proof.Safety

/-! ## Up to the raising of reached times -/

/-- `t` comes of `s` by changes of the parts named, and at most then by the raising of the reached times (R57). -/
def WithinDue (ps : List Part) (s t : State) : Prop := ∃ x, Within ps s x ∧ (t = x ∨ t = raiseDue x)

section

variable {ps qs : List Part} {s t u : State}

theorem Within.due (h : Within ps s t) : WithinDue ps s t := ⟨t, h, .inl rfl⟩

theorem Within.raised (h : Within ps s t) : WithinDue ps s (raiseDue t) := ⟨t, h, .inr rfl⟩

theorem WithinDue.after (h : Within ps s t) (h' : WithinDue ps t u) : WithinDue ps s u := by
  obtain ⟨x, hx, hu⟩ := h'
  exact ⟨x, h.trans hx, hu⟩

theorem WithinDue.mono (h : WithinDue ps s t) (hs : ps ⊆ qs) : WithinDue qs s t := by
  obtain ⟨x, hx, ht⟩ := h
  exact ⟨x, hx.mono hs, ht⟩

theorem WithinDue.table (h : WithinDue ps s t) (hp : Part.orders ∉ ps) : t.orders.table = s.orders.table := by
  obtain ⟨x, hx, rfl | rfl⟩ := h
  · exact congrArg OrderUnit.table (hx.keeps .orders hp)
  · rw [raiseDue_table]
    exact congrArg OrderUnit.table (hx.keeps .orders hp)

theorem WithinDue.list (h : WithinDue ps s t) (hp : Part.carriage ∉ ps) : t.carriage.list = s.carriage.list := by
  obtain ⟨x, hx, rfl | rfl⟩ := h
  · exact congrArg CarriageUnit.list (hx.keeps .carriage hp)
  · rw [raiseDue_list]
    exact congrArg CarriageUnit.list (hx.keeps .carriage hp)

theorem WithinDue.clock (h : WithinDue ps s t) (hp : Part.clock ∉ ps) :
    t.clock = { s.clock with frostEndRaised := t.clock.frostEndRaised } := by
  obtain ⟨x, hx, rfl | rfl⟩ := h
  · have hclock : t.clock = s.clock := hx.keeps .clock hp
    rw [hclock]
  · have hclock : x.clock = s.clock := hx.keeps .clock hp
    rw [raiseDue_clock, hclock]

end

/-! ## The clock's and the carriage unit's events -/

theorem rejectTime_raise (s : State) : Within [.comms, .clock, .billing] s (rejectTime s) :=
  (raise_within _ s).mono (by decide)

theorem setTime_due (p n : Nat) (s : State) : WithinDue [.comms, .clock, .billing] s (setTime p n s) :=
  ((clock_within _ s).mono (by decide)).raised

theorem takeTime_due (b : List Byte) (s : State) : WithinDue [.comms, .clock, .billing] s (takeTime b s) := by
  unfold takeTime
  split
  · unfold wellFormedTime
    split
    · exact (rejectTime_raise s).due
    · split
      · unfold timeWhileUnset
        dsimp only
        split_ifs
        · exact setTime_due _ _ s
        · exact WithinDue.after ((billing_within _ s).mono (by decide)) (setTime_due _ _ (catchUpClose s))
        · exact (rejectTime_raise s).due
      · unfold timeWhileSet
        split_ifs
        · exact setTime_due _ _ s
        · exact ((clock_within _ s).mono (by decide)).due
        · exact (rejectTime_raise s).due
  · exact (((countRefusedSource_within _ s).mono (by decide)).trans (rejectTime_raise _)).due

theorem takeFrostCall_due (b : List Byte) (s : State) : WithinDue [.comms, .clock] s (takeFrostCall b s) := by
  have hset : ∀ w, WithinDue [.comms, .clock] s (setFrost w s) := fun w => ((clock_within _ s).mono (by decide)).raised
  unfold takeFrostCall
  dsimp only
  split_ifs
  · exact ((countRefusedSource_within _ s).mono (by decide)).due
  · exact hset _
  · exact hset _

theorem changedCarriage_raised (u : CarriageUnit) (s : State) :
    WithinDue [.comms, .carriage] s (raiseDue { s with carriage := u }) :=
  ((carriage_within u s).mono (by decide)).raised

theorem removeCarriage_due (r n : Nat) (s : State) : WithinDue [.comms, .carriage] s (removeCarriage r n s) :=
  ((carriage_within _ s).mono (by decide)).due

theorem countUnmatched_due (s : State) : WithinDue [.comms, .carriage] s (countUnmatched s) :=
  ((countUnmatched_within s).mono (by decide)).due

theorem passDemand_due (f : Frame) (s : State) : WithinDue [.comms, .carriage] s (passDemand f s).1 := by
  unfold passDemand
  split
  · exact countUnmatched_due s
  · dsimp only
    split
    · exact (((send_within _ _ _ _ s).mono (by decide)).trans ((raise_within _ _).mono (by decide))).due
    · exact countUnmatched_due s
    · exact (Within.refl _ s).due
    · exact changedCarriage_raised _ s

theorem passConfirm_due (f : Frame) (s : State) : WithinDue [.comms, .carriage] s (passConfirm f s) := by
  unfold passConfirm
  split
  · exact countUnmatched_due s
  · split
    · exact changedCarriage_raised _ s
    · exact countUnmatched_due s

theorem passRefuse_due (f : Frame) (s : State) : WithinDue [.comms, .carriage] s (passRefuse f s) := by
  unfold passRefuse
  split
  · exact countUnmatched_due s
  · split
    · exact removeCarriage_due _ _ s
    · exact countUnmatched_due s

theorem passRelease_due (f : Frame) (s : State) : WithinDue [.comms, .carriage] s (passRelease f s).1 := by
  unfold passRelease
  split
  · exact countUnmatched_due s
  · dsimp only
    unfold releaseRecord
    split
    · exact countUnmatched_due s
    · split
      · exact removeCarriage_due _ _ s
      · split
        · exact changedCarriage_raised _ s
        · exact removeCarriage_due _ _ s

theorem takeCarriageEvent_due (k : CarriageEventKind) (s : State) :
    WithinDue [.comms, .carriage] s (takeCarriageEvent k s) := by
  unfold takeCarriageEvent
  split
  · exact (Within.refl _ s).due
  · split
    · exact removeCarriage_due _ _ s
    · exact (Within.refl _ s).due

/-! ## The order unit's events -/

theorem takeOrder_due (t : Turnout) (b : List Byte) (s : State) : WithinDue endParts s (takeOrder t b s) := by
  have hrefused : ∀ n tag x reason m, WithinDue endParts s (sendRefused t n tag x reason m s) := fun _ _ _ _ _ =>
    ((sendRefused_within _ _ _ _ _ _ s).mono (by decide)).due
  unfold takeOrder
  split
  · exact hrefused _ _ _ _ _
  · split
    · exact hrefused _ _ _ _ _
    · exact ((((orders_within _ s).mono (by decide)).trans ((sendNotice_within _ _ _ _).mono (by decide))).trans
        ((sendOffice_within _ _ _ _).mono (by decide))).raised

theorem takeCancel_due (t : Turnout) (b : List Byte) (s : State) : WithinDue endParts s (takeCancel t b s) := by
  have hrefused : ∀ n tag x reason m, WithinDue endParts s (sendRefused t n tag x reason m s) := fun _ _ _ _ _ =>
    ((sendRefused_within _ _ _ _ _ _ s).mono (by decide)).due
  unfold takeCancel
  split
  · split
    · exact ((endOrder_within _ _ s).mono (by decide)).due
    · exact hrefused _ _ _ _ _
  · exact hrefused _ _ _ _ _

theorem confirmOrder_due (o : OrderRec) (s : State) : WithinDue endParts s (confirmOrder o s) := by
  have hbooked : Within endParts s { s with orders := confirmRecord o.tag s.orders } :=
    (orders_within _ s).mono (by decide)
  have hbumped : Within endParts s (if isFrost o.cls then bump82 o { s with orders := confirmRecord o.tag s.orders }
      else { s with orders := confirmRecord o.tag s.orders }) :=
    within_ite (hbooked.trans ((bump82_within _ _).mono (by decide))) hbooked
  exact (hbumped.trans ((sendNotice_within _ _ _ _).mono (by decide))).raised

theorem takeConfirm_due (b : List Byte) (s : State) : WithinDue endParts s (takeConfirm b s) := by
  have hunmatched : WithinDue endParts s (countUnmatched s) := ((countUnmatched_within s).mono (by decide)).due
  unfold takeConfirm
  split
  · split
    · exact confirmOrder_due _ s
    · exact hunmatched
  · exact hunmatched

theorem takeRefuse_due (b : List Byte) (s : State) : WithinDue endParts s (takeRefuse b s) := by
  have hunmatched : WithinDue endParts s (countUnmatched s) := ((countUnmatched_within s).mono (by decide)).due
  unfold takeRefuse
  split
  · split
    · exact (((orders_within _ s).mono (by decide)).trans ((sendRefused_within _ _ _ _ _ _ _).mono (by decide))).due
    · exact hunmatched
  · exact hunmatched

theorem lapse_due (o : OrderRec) (s : State) : WithinDue endParts s (lapse o s) :=
  ((((orders_within _ s).mono (by decide)).trans ((sendNotice_within _ _ _ _).mono (by decide))).trans
    ((sendRelease_within _ _ _).mono (by decide))).trans ((raise_within _ _).mono (by decide)) |>.due

theorem startOrder_due (o : OrderRec) (s : State) : WithinDue (.metering :: endParts) s (startOrder o s) := by
  unfold startOrder
  split
  · split
    · exact ((endOrder_within _ _ s).mono (by decide)).due
    · exact ((((orders_within _ s).mono (by decide)).trans ((enterStart_within _ _).mono (by decide))).trans
        ((requestOpening_within _ _ _ _).mono (by decide))).trans ((sendNotice_within _ _ _ _).mono (by decide)) |>.raised
  · exact (Within.refl _ s).due

theorem endOrder_due (c : EndCause) (o : OrderRec) (s : State) : WithinDue endParts s (endOrder c o s) :=
  ((endOrder_within c o s).mono (by decide)).due

theorem takeOrderEvent_due {ps : List Part} (hp : [Part.orders] ⊆ ps) (k : OrderEventKind)
    {f : OrderRec → State → State} (hf : ∀ o t, WithinDue ps t (f o t)) (s : State) :
    WithinDue ps s (takeOrderEvent k f s) := by
  unfold takeOrderEvent
  split
  · exact WithinDue.after ((orders_within _ s).mono hp) (hf _ _)
  · exact (Within.refl _ s).due

/-! ## The form of an accepted table write -/

/-- What an accepted table write makes of a state, up to the reply. -/
inductive Written (s : State) : State → Prop where
  | reach (r : ReachTable) (h : reachConflict r s = none) : Written s (acceptReach r s)
  | turnout (t : Turnout) (e : TurnoutEntry) : Written s (acceptTurnout t e s)
  | account (i : Fin 64) (a : AccountEntry) : Written s (acceptAccount i a s)
  | timing (t : LineTiming) : Written s (acceptTiming t s)
  | quiet (t : State) (h : Within [.tables, .billing] s t) (hreach : t.tables.reach = s.tables.reach) : Written s t

/-- The state after the entry of an accepted ACCOUNTS write is stored, before what the write hands on (R39). -/
def accountStored (i : Fin 64) (a : AccountEntry) (s : State) : State :=
  let old := getAt s.tables.accounts i
  let c := getAt s.metering.counters i
  { s with
    tables := { s.tables with accounts := putAt s.tables.accounts i (storedAccount a) }
    metering := { s.metering with
      counters := putAt s.metering.counters i (writtenCounters old.number a.number s.free c) }
    free := s.free + renumberDraws old.number a.number c }

theorem acceptAccount_eq (i : Fin 64) (a : AccountEntry) (s : State) :
    acceptAccount i a s
      = if (getAt s.tables.accounts i).number ≠ 0 ∧ (getAt s.tables.accounts i).number = a.number then
          keepAccount i (getAt s.tables.accounts i) a (accountStored i a s)
        else accountStored i a s := rfl

/-- The state after the entry of an accepted TURNOUTS write is stored, before what the write hands on (R37). -/
def turnoutStored (t : Turnout) (e : TurnoutEntry) (s : State) : State :=
  { s with tables := { s.tables with turnouts := putAt s.tables.turnouts t e } }

theorem acceptTurnout_eq (t : Turnout) (e : TurnoutEntry) (s : State) :
    acceptTurnout t e s
      = checkCommand t (if (getAt s.tables.turnouts t).enabled && !e.enabled then endTurnout t (turnoutStored t e s)
          else turnoutStored t e s) := rfl

theorem acceptTiming_ports (x : LineTiming) (s : State) : Keeps [.comms, .tables] s (acceptTiming x s) :=
  (((tables_within _ s).toKeeps.mono (by decide)).trans ((retimePort_keeps .u _).mono (by decide))).trans
    ((retimePort_keeps .d _).mono (by decide))

theorem writeEntry_written {code entry : Nat} {b : List Byte} {s t : State} (h : writeEntry code entry b s = .ok t) :
    Written s t := by
  have hquiet : ∀ x : Tables, x.reach = s.tables.reach → Written s { s with tables := x } := fun x hx =>
    .quiet _ ((tables_within x s).mono (by decide)) hx
  unfold writeEntry at h
  split at h
  · unfold writeReach at h
    split at h
    · simp at h
    · split at h
      · simp at h
      next hc => exact Except.ok.inj h ▸ .reach _ hc
  · unfold writeTurnout at h
    split at h
    · exact Except.ok.inj h ▸ .turnout _ _
    · simp at h
  · unfold writeRating at h
    split at h
    · simp at h
    · dsimp only at h
      split at h
      · exact Except.ok.inj h ▸ hquiet _ rfl
      · simp at h
  · unfold writeAccount at h
    split at h
    · simp at h
    · split at h
      · simp at h
      · exact Except.ok.inj h ▸ .account _ _
  · unfold writeTariff at h
    split at h
    · simp at h
    · split at h
      · exact Except.ok.inj h ▸ .quiet _ ((billing_within _ s).mono (by decide)) rfl
      · simp at h
  · unfold writeTiming at h
    split at h
    · simp at h
    · split at h
      · exact Except.ok.inj h ▸ .timing _
      · simp at h
  · unfold writeScan at h
    split at h
    · simp at h
    · exact Except.ok.inj h ▸ hquiet _ rfl
  · exact Except.ok.inj h ▸ hquiet _ rfl

theorem tryWrite_written {b : List Byte} {s t : State} (h : tryWrite b s = .ok t) : Written s t := by
  unfold tryWrite at h
  dsimp only at h
  split_ifs at h
  exact writeEntry_written h

/-- A TABLE WRITE is a refusal alone, or an accepted write and its reply. -/
theorem actTableWrite_written (b : List Byte) (s : State) :
    ∃ t, (t = s ∨ Written s t) ∧ Within [.comms, .mgmt] t (actTableWrite b s) := by
  unfold actTableWrite
  split
  · exact ⟨s, .inl rfl, refuse_within _ _ _ _⟩
  next t h => exact ⟨t, .inr (tryWrite_written h), done_within _ _ _⟩

end Sys2Proof.Machine

/-! PROOFS. The table of orders (O58): the units take records out, change what is not a record's slot, and book one
record into free room. -/

namespace Sys2Proof.Machine

open Sys2Proof.Safety

/-! ## Slots -/

/-- What the laws of the order table speak of: tag, turnout and window. -/
def slotKey (o : OrderRec) : Nat × Turnout × Nat × Nat := (o.tag, o.turnout, o.start, o.stop)

/-- The slots of the order table. -/
def slots (s : State) : List (Nat × Turnout × Nat × Nat) := s.orders.table.map slotKey

/-- Some records of the order table may have gone, and none has come or moved. -/
def Thins (s t : State) : Prop := (slots t).Sublist (slots s)

theorem Thins.refl (s : State) : Thins s s := List.Sublist.refl _

theorem Thins.trans {s t u : State} (h : Thins s t) (h' : Thins t u) : Thins s u := List.Sublist.trans h' h

theorem thins_of_sublist {s t : State} (h : t.orders.table.Sublist s.orders.table) : Thins s t := h.map slotKey

theorem thins_of_table {s t : State} (h : t.orders.table = s.orders.table) : Thins s t :=
  thins_of_sublist (h ▸ List.Sublist.refl _)

theorem thins_of_keeps {ps : List Part} {s t : State} (h : Keeps ps s t) (hp : Part.orders ∉ ps) : Thins s t :=
  thins_of_table (congrArg OrderUnit.table (h.keeps .orders hp))

theorem thins_of_within {ps : List Part} {s t : State} (h : Within ps s t) (hp : Part.orders ∉ ps) : Thins s t :=
  thins_of_keeps h.toKeeps hp

theorem thins_of_map {s t : State} {f : OrderRec → OrderRec} (h : t.orders.table = s.orders.table.map f)
    (hf : ∀ o, slotKey (f o) = slotKey o) : Thins s t := by
  have he : slots t = slots s := by
    unfold slots
    rw [h, List.map_map]
    exact List.map_congr_left fun o _ => hf o
  unfold Thins
  rw [he]

/-- The laws of the order table are laws of its slots. -/
theorem orderLaw_iff_slots {s : State} :
    OrderLaw s ↔ (slots s).length ≤ 48
      ∧ (slots s).Pairwise (fun a b => a.1 < b.1 ∧ (a.2.1 = b.2.1 → b.2.2.2 ≤ a.2.2.1 ∨ a.2.2.2 ≤ b.2.2.1))
      ∧ ∀ k ∈ slots s, 1 ≤ k.1 ∧ k.1 ≤ 255 := by
  unfold slots OrderLaw
  rw [List.length_map, List.pairwise_map, List.forall_mem_map]
  exact Iff.rfl

/-- The laws of the order table pass to a table out of which records have gone. -/
theorem Thins.orderLaw {s t : State} (h : Thins s t) (hs : OrderLaw s) : OrderLaw t := by
  rw [orderLaw_iff_slots] at hs ⊢
  obtain ⟨hlength, hapart, htags⟩ := hs
  exact ⟨h.length_le.trans hlength, hapart.sublist h, fun k hk => htags k (h.subset hk)⟩

/-! ## What takes records out or changes them in their slots -/

theorem endOrder_thins (c : EndCause) (o : OrderRec) (s : State) : Thins s (endOrder c o s) :=
  thins_of_sublist (by rw [endOrder_orders]; exact List.filter_sublist)

theorem endTags_thins (c : EndCause) (l : List Nat) (s : State) : Thins s (endTags c l s) :=
  thins_of_sublist (endTags_sublist c l s)

theorem endRunning_thins (c : EndCause) (t : Turnout) (s : State) : Thins s (endRunning c t s) := by
  unfold endRunning
  split
  · exact endOrder_thins _ _ _
  · exact Thins.refl _

theorem shed_thins (n : Nat) (s : State) : Thins s (shed n s) := by
  have hwalk : Thins s ((shedOrder s.orders.table).foldl (shedTag n) s) :=
    thins_of_sublist (foldl_sublist (shedTag_sublist n) _ s)
  unfold shed
  dsimp only
  split
  · exact hwalk.trans (thins_of_within (raise_within _ _) (by decide))
  · exact hwalk

theorem recomputeDraw_thins (s : State) : Thins s (recomputeDraw s) := by
  have hclock : ∀ c, Thins s { s with clock := c } := fun _ => Thins.refl s
  unfold recomputeDraw
  dsimp only
  split
  · exact (hclock _).trans (shed_thins _ _)
  · exact hclock _

theorem thins_of_due {ps : List Part} {s t : State} (h : WithinDue ps s t) (hp : Part.orders ∉ ps) : Thins s t :=
  thins_of_table (h.table hp)

theorem raiseDue_thins (s : State) : Thins s (raiseDue s) := thins_of_table (raiseDue_table s)

theorem setOrderState_thins (tag : Nat) (st : OrderState) {u : OrderUnit} {s : State} (h : u.table = s.orders.table) :
    Thins s { s with orders := setOrderState tag st u } :=
  thins_of_map (f := fun o => if o.tag == tag then { o with state := st } else o) (by rw [setOrderState_table, h])
    fun o => by split <;> rfl

theorem slotKey_withSequence (q : Nat) (o : OrderRec) : slotKey (withSequence q o) = slotKey o := by
  unfold withSequence; split <;> rfl

/-- Renumbering changes sequences alone. -/
theorem readySequence_thins (s : State) : Thins s { s with orders := readySequence s.orders } := by
  unfold readySequence
  split
  · refine thins_of_map (f := fun o => match sequenceOf o with
      | none => o
      | some _ => withSequence ((tagsBySequence s.orders.table).idxOf o.tag + 1) o) rfl fun o => ?_
    split
    · rfl
    · exact slotKey_withSequence _ _
  · exact Thins.refl s

theorem confirmRecord_thins (tag : Nat) (s : State) : Thins s { s with orders := confirmRecord tag s.orders } :=
  (readySequence_thins s).trans (setOrderState_thins (s := { s with orders := readySequence s.orders }) tag _ rfl)

theorem confirmOrder_thins (o : OrderRec) (s : State) : Thins s (confirmOrder o s) := by
  have hsent : ∀ t, Thins t (sendConfirmed o t) := fun t => thins_of_within (sendStation_within _ _ _ _ t) (by decide)
  have hconfirmed := confirmRecord_thins o.tag s
  unfold confirmOrder
  dsimp only
  split
  · exact ((hconfirmed.trans (thins_of_sublist (bump82_sublist _ _))).trans (hsent _)).trans (raiseDue_thins _)
  · exact (hconfirmed.trans (hsent _)).trans (raiseDue_thins _)

theorem dropOrder_thins (tag : Nat) (s : State) : Thins s { s with orders := dropOrder tag s.orders } :=
  thins_of_sublist List.filter_sublist

theorem lapse_thins (o : OrderRec) (s : State) : Thins s (lapse o s) :=
  (((dropOrder_thins o.tag s).trans (thins_of_within (sendStation_within _ _ _ _ _) (by decide))).trans
    (thins_of_within (sendRelease_within _ _ _) (by decide))).trans (thins_of_within (raise_within _ _) (by decide))

theorem runOrder_thins (o : OrderRec) (q : Nat) (s : State) : Thins s (runOrder o q s) := by
  have hrunning := setOrderState_thins (u := s.orders) o.tag (.running q 0 (startCharge o.account s)) rfl
  unfold runOrder
  exact (((hrunning.trans (thins_of_within (enterStart_within _ _) (by decide))).trans
    (thins_of_within (requestOpening_within _ _ _ _) (by decide))).trans
    (thins_of_within (sendStation_within _ _ _ _ _) (by decide))).trans (raiseDue_thins _)

theorem startOrder_thins (o : OrderRec) (s : State) : Thins s (startOrder o s) := by
  unfold startOrder
  split
  · split
    · exact endOrder_thins _ _ _
    · exact runOrder_thins _ _ _
  · exact Thins.refl _

theorem takeOrderEvent_thins (k : OrderEventKind) {f : OrderRec → State → State} (hf : ∀ o t, Thins t (f o t))
    (s : State) : Thins s (takeOrderEvent k f s) := by
  unfold takeOrderEvent
  split
  · exact (thins_of_table (s := s) rfl).trans (hf _ _)
  · exact Thins.refl _

theorem slotKey_creditRec (v a : Nat) (o : OrderRec) : slotKey (creditRec v a o) = slotKey o := by
  unfold creditRec; split <;> rfl

theorem creditOrder_thins (tag v a : Nat) (s : State) : Thins s (creditOrder tag v a s) :=
  thins_of_map (f := fun o => if o.tag == tag then creditRec v a o else o) rfl fun o => by
    split
    · exact slotKey_creditRec _ _ _
    · rfl

theorem creditToOrder_thins (t : Turnout) (o : OrderRec) (v : Nat) (s : State) : Thins s (creditToOrder t o v s).1 := by
  unfold creditToOrder
  dsimp only
  split
  · exact creditOrder_thins _ _ _ (meterInterval t (.order o) v s)
  · exact creditOrder_thins _ _ _ (creditSlot _ v o.cls (isFrost o.cls) false (meterInterval t (.order o) v s))

theorem creditInterval_thins (t : Turnout) (v : Nat) (s : State) : Thins s (creditInterval t v s).1 := by
  unfold creditInterval
  split
  · exact creditToOrder_thins _ _ _ _
  · exact Thins.refl _
  · unfold creditUnordered
    dsimp only
    split
    · exact Thins.refl _
    · exact Thins.trans (t := meterInterval t .unordered v s) (Thins.refl _) (thins_of_within (raise_within _ _) (by decide))

theorem endsAndTrim_thins (t : Turnout) (m : Nat) (tags : List Nat) (s : State) : Thins s (endsAndTrim t m tags s) := by
  have htrim : ∀ x, Thins x (takeReading t m x) := fun x => thins_of_within (takeReading_within t m x) (by decide)
  unfold endsAndTrim
  dsimp only
  split
  · exact (endTags_thins _ _ _).trans (htrim _)
  · exact (((endTags_thins _ _ { s with free := s.free + 1 }).trans (htrim _))).trans (endTags_thins _ _ _)

theorem handOn_thins (x : Station) (v : Option Nat) (n : Nat) (s : State) : Thins s (handOn x v n s) := by
  unfold handOn
  split
  · exact ((creditInterval_thins _ _ s).trans (thins_of_within (raiseAllotment_within _ _) (by decide))).trans
      (endsAndTrim_thins _ _ _ _)
  · exact thins_of_within (takeReading_within _ _ _) (by decide)
  · split <;> exact Thins.refl _
  · exact Thins.refl _

theorem acceptReading_thins (x : Station) (head : Nat) (s : State) : Thins s (acceptReading x head s) := by
  have hrated : Thins s (if isOffRating x head s then raise .offRating s else s) :=
    thins_of_within (within_ite (raise_within _ _) (Within.refl [.comms] _)) (by decide)
  unfold acceptReading
  exact (hrated.trans (thins_of_within ((mapStation_within _ _ _).mono (by decide)) (ps := scanParts) (by decide))).trans
    ((thins_of_within (completePoll_within _) (by decide)).trans (handOn_thins _ _ _ _))

theorem takeHeadReading_thins (x : Station) (b : List Byte) (s : State) : Thins s (takeHeadReading x b s) := by
  have hrefused : Thins s (countRefusedSource .d s) := thins_of_within (countRefusedSource_within _ _) (by decide)
  unfold takeHeadReading
  split
  · split
    · split
      · exact acceptReading_thins _ _ _
      · exact thins_of_within (missPoll_within _ _) (by decide)
    · exact hrefused
  · exact hrefused

/-! ## Faults and lockouts -/

theorem gateFaultEvent_thins (t : Turnout) (s : State) : Thins s (gateFaultEvent t s) := endRunning_thins _ _ _

theorem lockoutOf_thins (t : Turnout) (r : GateReport) (s : State) : Thins s (lockoutOf t r s) := by
  unfold lockoutOf
  split
  · exact Thins.refl _
  · exact endRunning_thins _ _ _

theorem enterFault_thins (t : Turnout) (c : FaultCause) (s : State) : Thins s (enterFault t c s) :=
  thins_of_within (enterFault_within _ _ _) (by decide)

theorem takeReport_thins (t : Turnout) (b : List Byte) (s : State) : Thins s (takeReport t b s) := by
  have hmap : ∀ f x, Thins x (mapGate t f x) := fun _ x => Thins.refl x
  unfold takeReport
  split
  · exact thins_of_within (countRefusedSource_within _ _) (by decide)
  next r _ =>
    have hreported := hmap (reportedGate r) s
    unfold wellFormedReport
    dsimp only
    split
    · unfold reportInFault
      refine hreported.trans (Thins.trans ?_ (lockoutOf_thins _ _ _))
      split
      · exact hmap _ _
      · exact Thins.refl _
    · unfold reportOutOfFault
      refine hreported.trans ?_
      split
      · exact ((enterFault_thins _ _ _).trans (lockoutOf_thins _ _ _)).trans (gateFaultEvent_thins _ _)
      · exact (hmap _ _).trans (lockoutOf_thins _ _ _)
      · exact (hmap _ _).trans (lockoutOf_thins _ _ _)
      · exact lockoutOf_thins _ _ _

theorem timerFault_thins (t : Turnout) (c : FaultCause) (s : State) : Thins s (timerFault t c s) :=
  (enterFault_thins _ _ _).trans (gateFaultEvent_thins _ _)

/-! ## Table writes -/

theorem allotmentAtWrite_thins (i : Fin 64) (s : State) : Thins s (allotmentAtWrite i s) := by
  unfold allotmentAtWrite
  dsimp only
  split
  · exact (thins_of_within (raise_within _ s) (by decide)).trans (endTags_thins _ _ _)
  · exact Thins.refl _

theorem acceptReach_thins (r : ReachTable) (s : State) : Thins s (acceptReach r s) := by
  have hdraw : Thins s (recomputeDraw { s with tables := { s.tables with reach := r } }) := recomputeDraw_thins _
  unfold acceptReach takeWarnChoice
  split
  · exact hdraw
  · exact hdraw.trans (thins_of_within (compareSupply_within _) (by decide))

theorem acceptTurnout_thins (t : Turnout) (e : TurnoutEntry) (s : State) : Thins s (acceptTurnout t e s) := by
  have hstored : Thins s (turnoutStored t e s) := Thins.refl s
  rw [acceptTurnout_eq]
  refine Thins.trans ?_ (thins_of_within (checkCommand_within _ _) (by decide))
  split
  · exact hstored.trans (endTags_thins _ _ _)
  · exact hstored

theorem keepAccount_thins (i : Fin 64) (old new : AccountEntry) (s : State) : Thins s (keepAccount i old new s) := by
  unfold keepAccount
  dsimp only
  split
  · exact (endTags_thins _ _ _).trans (allotmentAtWrite_thins _ _)
  · exact endTags_thins _ _ _

theorem acceptAccount_thins (i : Fin 64) (a : AccountEntry) (s : State) : Thins s (acceptAccount i a s) := by
  have hstored : Thins s (accountStored i a s) := Thins.refl s
  rw [acceptAccount_eq]
  split
  · exact hstored.trans (keepAccount_thins _ _ _ _)
  · exact hstored

theorem Written.thins {s t : State} (h : Written s t) : Thins s t := by
  cases h with
  | reach r => exact acceptReach_thins r s
  | turnout t e => exact acceptTurnout_thins t e s
  | account i a => exact acceptAccount_thins i a s
  | timing t => exact thins_of_keeps (acceptTiming_ports t s) (by decide)
  | quiet _ h => exact thins_of_within h (by decide)

theorem actTableWrite_thins (b : List Byte) (s : State) : Thins s (actTableWrite b s) := by
  obtain ⟨t, ht, hreply⟩ := actTableWrite_written b s
  refine Thins.trans ?_ (thins_of_within hreply (by decide))
  obtain rfl | hwritten := ht
  · exact Thins.refl _
  · exact hwritten.thins

/-! ## Admission -/

/-- The tags, counted on from one after the counter. -/
theorem tagRing_nodup (counter : Nat) : ((List.range 255).map fun i => (counter + i) % 255 + 1).Nodup := by
  refine List.Nodup.map_on ?_ List.nodup_range
  intro a ha b hb hab
  rw [List.mem_range] at ha hb
  omega

/-- While the table does not hold all 255 tags, the next tag is a free one. -/
theorem nextTag_free (counter : Nat) {table : List OrderRec} (h : table.length < 255) :
    1 ≤ nextTag counter table ∧ nextTag counter table ≤ 255 ∧ ∀ o ∈ table, o.tag ≠ nextTag counter table := by
  unfold nextTag
  cases hfind : ((List.range 255).map fun i => (counter + i) % 255 + 1).find? fun t => !table.any fun o => o.tag == t with
  | some t =>
    obtain ⟨i, -, rfl⟩ := List.mem_map.1 (List.mem_of_find?_eq_some hfind)
    have hunused := List.find?_some hfind
    simp only [Bool.not_eq_true', List.any_eq_false, beq_iff_eq] at hunused
    simp only [Option.getD_some]
    exact ⟨by omega, by omega, hunused⟩
  | none =>
    have hall : ((List.range 255).map fun i => (counter + i) % 255 + 1) ⊆ table.map (·.tag) := by
      intro t ht
      have hused := List.find?_eq_none.1 hfind t ht
      simpa using hused
    have hcount := (List.subperm_of_subset (tagRing_nodup counter) hall).length_le
    simp only [List.length_map, List.length_range] at hcount
    omega

theorem laterChecks_room {t : Turnout} {q : OrderRequest} {i : Fin 64} {s : State} (h : laterChecks t q i s = none) :
    windowFree t q s = true ∧ s.orders.table.length < 48 := by
  unfold laterChecks at h
  dsimp only at h
  split_ifs at h with _ _ _ _ hfree _ _ _ _ hroom
  exact ⟨by simpa using hfree, by omega⟩

/-- An order that no check refuses finds its window free and room in the table. -/
theorem refusalReason_room {t : Turnout} {q : OrderRequest} {s : State} (h : refusalReason t q s = none) :
    windowFree t q s = true ∧ s.orders.table.length < 48 := by
  unfold refusalReason at h
  split_ifs at h
  split at h
  · simp at h
  · exact laterChecks_room h

/-- Insertion into a list keeps a relation that the key follows. -/
theorem insertBy_pairwise {α : Type} {key : α → Nat} {R : α → α → Prop} (hkey : ∀ a b, R a b → key a ≤ key b) {x : α}
    {l : List α} (hx : ∀ y ∈ l, (key x < key y → R x y) ∧ (key y ≤ key x → R y x)) (hl : l.Pairwise R) :
    (insertBy key x l).Pairwise R := by
  induction l with
  | nil => simp [insertBy]
  | cons y ys ih =>
    rw [List.pairwise_cons] at hl
    obtain ⟨hy, hys⟩ := hl
    rw [List.forall_mem_cons] at hx
    obtain ⟨hxy, hxys⟩ := hx
    unfold insertBy
    split
    next hlt =>
      have hlater : ∀ z ∈ ys, R x z := fun z hz => (hxys z hz).1 (hlt.trans_le (hkey y z (hy z hz)))
      exact List.pairwise_cons.2 ⟨List.forall_mem_cons.2 ⟨hxy.1 hlt, hlater⟩, List.pairwise_cons.2 ⟨hy, hys⟩⟩
    next hle =>
      refine List.pairwise_cons.2 ⟨fun z hz => ?_, ih hxys hys⟩
      obtain rfl | hz := (mem_insertBy key x z ys).1 hz
      · exact hxy.2 (Nat.le_of_not_lt hle)
      · exact hy z hz

theorem admittedTable_law {t : Turnout} {q : OrderRequest} {s : State} (h : refusalReason t q s = none)
    (hs : OrderLaw s) : OrderLaw (admitOrder t q s) := by
  obtain ⟨hfree, hroom⟩ := refusalReason_room h
  obtain ⟨-, hapart, htags⟩ := hs
  obtain ⟨hmin, hmax, hunused⟩ := nextTag_free s.orders.tagCounter (hroom.trans (by decide))
  rw [windowFree_iff] at hfree
  have htable : (admitOrder t q s).orders.table = insertOrder (admittedRecord t q s) s.orders.table := by
    unfold admitOrder
    rw [raiseDue_table]
    rfl
  refine ⟨?_, ?_, ?_⟩
  · rw [htable]
    unfold insertOrder
    rw [length_insertBy]
    exact hroom
  · rw [htable]
    refine insertBy_pairwise (fun a b hab => hab.1.le) (fun o ho => ?_) hapart
    have htag : o.tag ≠ (admittedRecord t q s).tag := hunused o ho
    refine ⟨fun hlt => ⟨hlt, fun hturnout => ?_⟩, fun hle => ⟨hle.lt_of_ne htag, fun hturnout => ?_⟩⟩
    · exact (hfree o ho hturnout.symm).symm
    · exact hfree o ho hturnout
  · rw [htable]
    intro o ho
    obtain rfl | ho := (mem_insertBy _ _ _ _).1 ho
    · exact ⟨hmin, hmax⟩
    · exact htags o ho

theorem takeOrder_orderLaw (t : Turnout) (b : List Byte) {s : State} (hs : OrderLaw s) : OrderLaw (takeOrder t b s) := by
  have hrefused : ∀ n tag x reason m, OrderLaw (sendRefused t n tag x reason m s) := fun _ _ _ _ _ =>
    (thins_of_within (sendStation_within _ _ _ _ _) (by decide)).orderLaw hs
  unfold takeOrder
  split
  · exact hrefused _ _ _ _ _
  · split
    · exact hrefused _ _ _ _ _
    next h => exact admittedTable_law h hs

theorem takeCancel_thins (t : Turnout) (b : List Byte) (s : State) : Thins s (takeCancel t b s) := by
  have hrefused : ∀ n tag x reason m, Thins s (sendRefused t n tag x reason m s) := fun _ _ _ _ _ =>
    thins_of_within (sendStation_within _ _ _ _ _) (by decide)
  unfold takeCancel
  split
  · split
    · exact endOrder_thins _ _ _
    · exact hrefused _ _ _ _ _
  · exact hrefused _ _ _ _ _

theorem takeConfirm_thins (b : List Byte) (s : State) : Thins s (takeConfirm b s) := by
  have hunmatched : Thins s (countUnmatched s) := thins_of_within (countUnmatched_within _) (by decide)
  unfold takeConfirm
  split
  · split
    · exact confirmOrder_thins _ _
    · exact hunmatched
  · exact hunmatched

theorem takeRefuse_thins (b : List Byte) (s : State) : Thins s (takeRefuse b s) := by
  have hunmatched : Thins s (countUnmatched s) := thins_of_within (countUnmatched_within _) (by decide)
  unfold takeRefuse
  split
  · split
    · exact (dropOrder_thins _ s).trans (thins_of_within (sendStation_within _ _ _ _ _) (by decide))
    · exact hunmatched
  · exact hunmatched

theorem takeCurtail_thins (b : List Byte) (s : State) : Thins s (takeCurtail b s) := by
  unfold takeCurtail
  split
  · split
    · exact Thins.refl _
    · exact (thins_of_table (s := s) rfl).trans (recomputeDraw_thins _)
  · exact thins_of_within (countRefusedSource_within _ _) (by decide)

/-! ## The clock and the restarts -/

theorem frostEnd_thins (s : State) : Thins s (frostEnd s) := by
  unfold frostEnd
  split <;> exact Thins.refl s

theorem ordersApart_rebase (len : Nat) {a b : OrderRec} (h : ordersApart a b) :
    ordersApart (rebaseOrder len a) (rebaseOrder len b) := by
  obtain ⟨htag, hwindow⟩ := h
  refine ⟨htag, fun hturnout => (hwindow hturnout).imp ?_ ?_⟩
  · exact fun h => Nat.sub_le_sub_right h len
  · exact fun h => Nat.sub_le_sub_right h len

theorem wrap_orderLaw {s : State} (hs : OrderLaw s) : OrderLaw (wrap s) := by
  obtain ⟨hlength, hapart, htags⟩ := hs
  refine ⟨(List.length_map _).trans_le hlength, List.pairwise_map.2 (hapart.imp (ordersApart_rebase _)), ?_⟩
  intro o ho
  obtain ⟨x, hx, rfl⟩ := List.mem_map.1 ho
  exact htags x hx

theorem tick_orderLaw {s : State} (hs : OrderLaw s) : OrderLaw (tick s) := by
  unfold tick
  split
  · exact hs
  · refine (raiseDue_thins _).orderLaw ?_
    unfold advance
    split
    · exact wrap_orderLaw (s := countRun s) hs
    · exact hs

theorem restartReading_orderLaw (k : RestartKind) (s : State) : OrderLaw (restartReading k s) :=
  ⟨Nat.zero_le _, List.Pairwise.nil, fun _ ho => absurd ho List.not_mem_nil⟩

theorem restartWiped_orderLaw (s : State) : OrderLaw (restartWiped s) :=
  ⟨Nat.zero_le _, List.Pairwise.nil, fun _ ho => absurd ho List.not_mem_nil⟩

/-! ## The law -/

theorem Op.run_orderLaw (o : Op) {s : State} (hs : OrderLaw s) : OrderLaw (o.run s) := by
  cases o with
  | order t b => exact takeOrder_orderLaw t b hs
  | cancel t b => exact (takeCancel_thins t b s).orderLaw hs
  | report t b => exact (takeReport_thins t b s).orderLaw hs
  | reading x b => exact (takeHeadReading_thins x b s).orderLaw hs
  | confirm b => exact (takeConfirm_thins b s).orderLaw hs
  | refuse b => exact (takeRefuse_thins b s).orderLaw hs
  | time b => exact (thins_of_due (takeTime_due b s) (by decide)).orderLaw hs
  | frostCall b => exact (thins_of_due (takeFrostCall_due b s) (by decide)).orderLaw hs
  | curtail b => exact (takeCurtail_thins b s).orderLaw hs
  | tableWrite b => exact (actTableWrite_thins b s).orderLaw hs
  | tick => exact tick_orderLaw hs
  | frostEnd => exact (frostEnd_thins s).orderLaw hs
  | holdDeadline => exact (takeOrderEvent_thins _ lapse_thins s).orderLaw hs
  | startReached => exact (takeOrderEvent_thins _ startOrder_thins s).orderLaw hs
  | endReached => exact (takeOrderEvent_thins _ (endOrder_thins _) s).orderLaw hs
  | replyTimeout t =>
    refine Thins.orderLaw ?_ hs
    dsimp only [Op.run]
    unfold Machine.replyTimeout
    dsimp only
    split
    · exact timerFault_thins _ _ _
    · exact Thins.refl _
  | travelTimeout t =>
    refine Thins.orderLaw ?_ hs
    dsimp only [Op.run]
    unfold Machine.travelTimeout
    dsimp only
    split
    · exact timerFault_thins _ _ _
    · exact Thins.refl _
  | passDemand f => exact (thins_of_due (passDemand_due f s) (by decide)).orderLaw hs
  | passConfirm f => exact (thins_of_due (passConfirm_due f s) (by decide)).orderLaw hs
  | passRefuse f => exact (thins_of_due (passRefuse_due f s) (by decide)).orderLaw hs
  | passRelease f => exact (thins_of_due (passRelease_due f s) (by decide)).orderLaw hs
  | carriageEvent k => exact (thins_of_due (takeCarriageEvent_due k s) (by decide)).orderLaw hs
  | operationEnd passed =>
    obtain ⟨x, hx, h | h | h⟩ := operationEnd_cases passed s
    · exact (thins_of_keeps (t := Machine.operationEnd passed s) (h ▸ hx.toKeeps) (by decide)).orderLaw hs
    · exact (congrArg OrderLaw h).mpr (restartReading_orderLaw _ x)
    · exact (congrArg OrderLaw h).mpr (restartWiped_orderLaw x)
  | supplyMoves level =>
    obtain h | h := supplyMoves_cases level s
    · exact (thins_of_keeps h (by decide)).orderLaw hs
    · exact (congrArg OrderLaw h).mpr (restartReading_orderLaw _ _)
  | finishLoading =>
    dsimp only [Op.run]
    unfold Machine.finishLoading
    split
    · exact hs
    · exact (thins_of_keeps (endLoading_keeps _ s) (by decide)).orderLaw hs
  | forward | misrouted | refusedSource | takeFrom | leaveHolding | endGap | captureSaturation | inactiveEdge | activeEdge
    | transmitStart | transmitEnd | talkerClash | resend | busyPending | tableRead | storeCommit | statusRead
    | eventClear | billRead | orderRead | command | periodClose | intervalExpiry | pollTimeout =>
    exact (thins_of_keeps (Op.run_keeps _ s) (by dsimp only [Op.parts]; decide)).orderLaw hs

/-- Settles O58: every operation takes records out, keeps their slots, or admits one into free room. -/
theorem orderLawIsKept : Obligations.OrderLawIsKept := fun _ _ hs h =>
  step_induct (P := OrderLaw) (fun _ _ hs => hs) (fun o _ _ hs => o.run_orderLaw hs) hs h

end Sys2Proof.Machine

/-! PROOFS. The carriage list (O59): a record goes, keeps its key, or comes under a new key into free room. -/

namespace Sys2Proof.Machine

open Sys2Proof.Safety

/-! ## Keys -/

/-- What the law of the carriage list speaks of: origin reach and origin tag. -/
def carriageKeyOf (r : CarriageRec) : Nat × Nat := (r.originReach, r.originTag)

/-- The keys of the carriage list. -/
def carriageKeys (l : List CarriageRec) : List (Nat × Nat) := l.map carriageKeyOf

/-- The law of the carriage list is a law of its keys. -/
theorem carriageLaw_iff_keys {s : State} :
    CarriageLaw s ↔ (carriageKeys s.carriage.list).length ≤ 64
      ∧ (carriageKeys s.carriage.list).Pairwise (fun a b => a.1 < b.1 ∨ (a.1 = b.1 ∧ a.2 < b.2))
      ∧ ∀ k ∈ carriageKeys s.carriage.list, k.1 ≤ 249 ∧ k.2 ≤ 255 := by
  unfold carriageKeys CarriageLaw
  rw [List.length_map, List.pairwise_map, List.forall_mem_map]
  exact Iff.rfl

/-- The law passes to a list out of which keys have gone. -/
theorem carriageLaw_of_keys {s t : State} (h : (carriageKeys t.carriage.list).Sublist (carriageKeys s.carriage.list))
    (hs : CarriageLaw s) : CarriageLaw t := by
  rw [carriageLaw_iff_keys] at hs ⊢
  obtain ⟨hlength, hapart, hrange⟩ := hs
  exact ⟨h.length_le.trans hlength, hapart.sublist h, fun k hk => hrange k (h.subset hk)⟩

theorem carriageLaw_of_list {s t : State} (h : t.carriage.list = s.carriage.list) (hs : CarriageLaw s) :
    CarriageLaw t :=
  carriageLaw_of_keys (h ▸ List.Sublist.refl _) hs

theorem carriageLaw_of_nil {s : State} (h : s.carriage.list = []) : CarriageLaw s := by
  unfold CarriageLaw
  rw [h]
  exact ⟨Nat.zero_le _, List.Pairwise.nil, fun _ hr => absurd hr List.not_mem_nil⟩

/-- A change of records that keeps their keys keeps the law. -/
theorem carriageLaw_of_map {s t : State} {f : CarriageRec → CarriageRec} (h : t.carriage.list = s.carriage.list.map f)
    (hf : ∀ r, carriageKeyOf (f r) = carriageKeyOf r) (hs : CarriageLaw s) : CarriageLaw t := by
  refine carriageLaw_of_keys (s := s) ?_ hs
  have hkeys : carriageKeys t.carriage.list = carriageKeys s.carriage.list := by
    unfold carriageKeys
    rw [h, List.map_map]
    exact List.map_congr_left fun r _ => hf r
  rw [hkeys]

theorem removeCarriage_carriageLaw (reach tag : Nat) {s : State} (hs : CarriageLaw s) :
    CarriageLaw (removeCarriage reach tag s) :=
  carriageLaw_of_keys (s := s) (List.filter_sublist.map carriageKeyOf) hs

theorem changeCarriage_carriageLaw (reach tag : Nat) {f : CarriageRec → CarriageRec}
    (hf : ∀ r, carriageKeyOf (f r) = carriageKeyOf r) {s : State} (hs : CarriageLaw s) :
    CarriageLaw (raiseDue { s with carriage := changeCarriage reach tag f s.carriage }) := by
  refine carriageLaw_of_map (s := s) (f := fun r => if hasKey reach tag r then f r else r) (raiseDue_list _)
    (fun r => ?_) hs
  split
  · exact hf r
  · rfl

/-! ## Booking -/

theorem parseDemand_range {n : Nat} {b : List Byte} {d : DemandBody} (h : parseDemand n b = some d) :
    d.originReach ≤ 249 ∧ d.tag ≤ 255 := by
  unfold parseDemand at h
  split_ifs at h with hform
  obtain ⟨-, -, hreach, -⟩ := hform
  obtain rfl := Option.some.inj h
  exact ⟨hreach, Nat.le_of_lt_succ (field_lt b 1 1)⟩

/-- A DEMAND that is booked finds no record of its key, and room. -/
theorem demandCase_booked {d : DemandBody} {s : State} (h : demandCase d s = .booked) :
    findCarriage d.originReach d.tag s = none ∧ s.carriage.list.length < 64 := by
  unfold demandCase at h
  split_ifs at h with _ _ hknown _ hroom
  exact ⟨by simpa using hknown, Nat.lt_of_not_le hroom⟩

theorem carriageKey_lt_iff {a b : CarriageRec} (ha : a.originTag ≤ 255) (hb : b.originTag ≤ 255) :
    carriageKey a < carriageKey b
      ↔ a.originReach < b.originReach ∨ (a.originReach = b.originReach ∧ a.originTag < b.originTag) := by
  unfold carriageKey
  omega

theorem bookDemand_carriageLaw {d : DemandBody} {s : State} (hrange : d.originReach ≤ 249 ∧ d.tag ≤ 255)
    (hcase : demandCase d s = .booked) (hs : CarriageLaw s) : CarriageLaw (bookDemand d s) := by
  obtain ⟨hnone, hroom⟩ := demandCase_booked hcase
  obtain ⟨-, hordered, hkeys⟩ := hs
  have hlist : (bookDemand d s).carriage.list = insertBy carriageKey (bookedRecord d) s.carriage.list := raiseDue_list _
  have hother : ∀ r ∈ s.carriage.list, ¬ (r.originReach = d.originReach ∧ r.originTag = d.tag) := fun r hr h =>
    List.find?_eq_none.1 hnone r hr (hasKey_iff.2 h)
  -- The list is ordered by its keys as numbers, with tags within a byte.
  have hnumbered : s.carriage.list.Pairwise fun a b => carriageKey a < carriageKey b :=
    hordered.imp_of_mem fun {a b} ha hb hab => (carriageKey_lt_iff (hkeys a ha).2 (hkeys b hb).2).2 hab
  have hranges : ∀ r ∈ insertBy carriageKey (bookedRecord d) s.carriage.list, r.originReach ≤ 249 ∧ r.originTag ≤ 255 := by
    intro r hr
    obtain rfl | hr := (mem_insertBy _ _ _ _).1 hr
    · exact hrange
    · exact hkeys r hr
  have hinserted : (insertBy carriageKey (bookedRecord d) s.carriage.list).Pairwise
      fun a b => carriageKey a < carriageKey b := by
    refine insertBy_pairwise (fun a b hab => hab.le) (fun r hr => ⟨id, fun hle => lt_of_le_of_ne hle fun heq => ?_⟩)
      hnumbered
    have hr255 := (hkeys r hr).2
    have hd255 := hrange.2
    refine hother r hr ?_
    simp only [carriageKey, bookedRecord] at heq
    omega
  refine ⟨?_, ?_, ?_⟩
  · rw [hlist, length_insertBy]
    exact hroom
  · rw [hlist]
    exact hinserted.imp_of_mem fun {a b} ha hb hab => (carriageKey_lt_iff (hranges a ha).2 (hranges b hb).2).1 hab
  · rw [hlist]
    exact hranges

/-! ## Passing frames, expiry and wraps -/

theorem passDemand_carriageLaw (f : Frame) {s : State} (hs : CarriageLaw s) : CarriageLaw (passDemand f s).1 := by
  have hunmatched : CarriageLaw (countUnmatched s) :=
    carriageLaw_of_list (congrArg CarriageUnit.list ((countUnmatched_within s).keeps .carriage (by decide))) hs
  unfold passDemand
  split
  · exact hunmatched
  next d hd =>
    dsimp only
    split
    · exact carriageLaw_of_list (s := s) rfl hs
    · exact hunmatched
    · exact hs
    next hcase => exact bookDemand_carriageLaw (d := ownWindow s d) (parseDemand_range (d := d) hd) hcase hs

theorem firmCarriage_carriageLaw (reach tag : Nat) {s : State} (hs : CarriageLaw s) :
    CarriageLaw (firmCarriage reach tag s) :=
  changeCarriage_carriageLaw reach tag (f := fun r => { r with state := .firm }) (fun _ => rfl) hs

theorem shortenCarriage_carriageLaw (reach tag n : Nat) {s : State} (hs : CarriageLaw s) :
    CarriageLaw (shortenCarriage reach tag n s) :=
  changeCarriage_carriageLaw reach tag (f := fun r => { r with stop := min r.stop n }) (fun _ => rfl) hs

theorem passConfirm_carriageLaw (f : Frame) {s : State} (hs : CarriageLaw s) : CarriageLaw (passConfirm f s) := by
  have hunmatched : CarriageLaw (countUnmatched s) := carriageLaw_of_list (s := s) rfl hs
  unfold passConfirm
  split
  · exact hunmatched
  · split
    · exact firmCarriage_carriageLaw _ _ hs
    · exact hunmatched

theorem passRefuse_carriageLaw (f : Frame) {s : State} (hs : CarriageLaw s) : CarriageLaw (passRefuse f s) := by
  have hunmatched : CarriageLaw (countUnmatched s) := carriageLaw_of_list (s := s) rfl hs
  unfold passRefuse
  split
  · exact hunmatched
  · split
    · exact removeCarriage_carriageLaw _ _ hs
    · exact hunmatched

theorem passRelease_carriageLaw (f : Frame) {s : State} (hs : CarriageLaw s) : CarriageLaw (passRelease f s).1 := by
  have hunmatched : CarriageLaw (countUnmatched s) := carriageLaw_of_list (s := s) rfl hs
  unfold passRelease
  split
  · exact hunmatched
  · dsimp only
    unfold releaseRecord
    split
    · exact hunmatched
    · split
      · exact removeCarriage_carriageLaw _ _ hs
      · split
        · exact shortenCarriage_carriageLaw _ _ _ hs
        · exact removeCarriage_carriageLaw _ _ hs

theorem takeCarriageEvent_carriageLaw (k : CarriageEventKind) {s : State} (hs : CarriageLaw s) :
    CarriageLaw (takeCarriageEvent k s) := by
  unfold takeCarriageEvent
  split
  · exact hs
  · split
    · exact removeCarriage_carriageLaw _ _ hs
    · exact hs

theorem tick_carriageLaw {s : State} (hs : CarriageLaw s) : CarriageLaw (tick s) := by
  unfold tick
  split
  · exact hs
  · refine carriageLaw_of_list (raiseDue_list _) ?_
    unfold advance
    split
    · exact carriageLaw_of_map (s := s) (f := rebaseCarriage s.tables.reach.periodLength) rfl (fun _ => rfl) hs
    · exact hs

/-! ## The law -/

theorem Op.run_carriageLaw (o : Op) {s : State} (hs : CarriageLaw s) : CarriageLaw (o.run s) := by
  have hkeeps : ∀ {ps t}, Keeps ps s t → Part.carriage ∉ ps → CarriageLaw t := fun h hp =>
    carriageLaw_of_list (congrArg CarriageUnit.list (h.keeps .carriage hp)) hs
  have hdue : ∀ {ps t}, WithinDue ps s t → Part.carriage ∉ ps → CarriageLaw t := fun h hp =>
    carriageLaw_of_list (h.list hp) hs
  cases o with
  | order t b => exact hdue (takeOrder_due t b s) (by decide)
  | cancel t b => exact hdue (takeCancel_due t b s) (by decide)
  | confirm b => exact hdue (takeConfirm_due b s) (by decide)
  | refuse b => exact hdue (takeRefuse_due b s) (by decide)
  | holdDeadline => exact hdue (takeOrderEvent_due (by decide) _ lapse_due s) (by decide)
  | startReached => exact hdue (takeOrderEvent_due (by decide) _ startOrder_due s) (by decide)
  | endReached => exact hdue (takeOrderEvent_due (by decide) _ (endOrder_due _) s) (by decide)
  | time b => exact hdue (takeTime_due b s) (by decide)
  | frostCall b => exact hdue (takeFrostCall_due b s) (by decide)
  | tick => exact tick_carriageLaw hs
  | frostEnd =>
    refine carriageLaw_of_list (s := s) ?_ hs
    dsimp only [Op.run]
    unfold Machine.frostEnd
    split <;> rfl
  | passDemand f => exact passDemand_carriageLaw f hs
  | passConfirm f => exact passConfirm_carriageLaw f hs
  | passRefuse f => exact passRefuse_carriageLaw f hs
  | passRelease f => exact passRelease_carriageLaw f hs
  | carriageEvent k => exact takeCarriageEvent_carriageLaw k hs
  | operationEnd passed =>
    obtain ⟨x, hx, h | h | h⟩ := operationEnd_cases passed s
    · exact hkeeps (t := Machine.operationEnd passed s) (h ▸ hx.toKeeps) (by decide)
    · exact (congrArg CarriageLaw h).mpr (carriageLaw_of_nil rfl)
    · exact (congrArg CarriageLaw h).mpr (carriageLaw_of_nil rfl)
  | supplyMoves level =>
    obtain h | h := supplyMoves_cases level s
    · exact hkeeps h (by decide)
    · exact (congrArg CarriageLaw h).mpr (carriageLaw_of_nil rfl)
  | finishLoading =>
    dsimp only [Op.run]
    unfold Machine.finishLoading
    split
    · exact hs
    · exact hkeeps (endLoading_keeps _ s) (by decide)
  | forward | misrouted | refusedSource | takeFrom | leaveHolding | endGap | captureSaturation | inactiveEdge | activeEdge
    | transmitStart | transmitEnd | talkerClash | report | reading | curtail | resend | busyPending | tableWrite
    | tableRead | storeCommit | statusRead | eventClear | billRead | orderRead | command | periodClose
    | replyTimeout | travelTimeout | intervalExpiry | pollTimeout =>
    exact hkeeps (Op.run_keeps _ s) (by dsimp only [Op.parts]; decide)

/-- Settles O59: every operation takes records out, keeps their keys, or books one under a new key into free room. -/
theorem carriageLawIsKept : Obligations.CarriageLawIsKept := fun _ _ hs h =>
  step_induct (P := CarriageLaw) (fun _ _ hs => hs) (fun o _ _ hs => o.run_carriageLaw hs) hs h

end Sys2Proof.Machine

/-! PROOFS. The bypass relay and the clock record (O56). -/

namespace Sys2Proof.Machine

open Sys2Proof.Safety

/-! ## The relay -/

/-- What the law of the relay speaks of is as it was: whether the part is stopped, the relay, and the loading. -/
structure SameRelay (s t : State) : Prop where
  backup : t.supply.status = .backup ↔ s.supply.status = .backup
  relay : t.supply.relayClosed = s.supply.relayClosed
  loading : t.loading = s.loading

theorem SameRelay.refl (s : State) : SameRelay s s := ⟨Iff.rfl, rfl, rfl⟩

theorem SameRelay.trans {s t u : State} (h : SameRelay s t) (h' : SameRelay t u) : SameRelay s u :=
  ⟨h'.backup.trans h.backup, h'.relay.trans h.relay, h'.loading.trans h.loading⟩

theorem SameRelay.relayLaw {s t : State} (h : SameRelay s t) (hs : RelayLaw s) : RelayLaw t := by
  unfold RelayLaw
  rw [h.backup, h.relay, h.loading]
  exact hs

theorem sameRelay_of_keeps {ps : List Part} {s t : State} (h : Keeps ps s t) (hsupply : Part.supply ∉ ps)
    (hloading : Part.loading ∉ ps) : SameRelay s t := by
  have he : t.supply = s.supply := h.keeps .supply hsupply
  exact ⟨he ▸ Iff.rfl, he ▸ rfl, h.keeps .loading hloading⟩

theorem sameRelay_of_within {ps : List Part} {s t : State} (h : Within ps s t) (hsupply : Part.supply ∉ ps)
    (hloading : Part.loading ∉ ps) : SameRelay s t :=
  sameRelay_of_keeps h.toKeeps hsupply hloading

/-- A passage between NORMAL and LOW stops no part. -/
theorem setStatus_sameRelay {st : SupplyStatus} {s : State} (hst : st ≠ .backup) (hs : s.supply.status ≠ .backup) :
    SameRelay s (setStatus st s) :=
  ⟨iff_of_false hst hs, rfl, rfl⟩

theorem fallCheck_sameRelay (s : State) : SameRelay s (fallCheck s) := by
  unfold fallCheck
  split
  next h =>
    have hlow : SameRelay s (setStatus .low s) := setStatus_sameRelay (by decide) (by rw [h.1]; decide)
    unfold passToLow
    split
    · exact hlow
    · exact (hlow.trans (sameRelay_of_within (raise_within _ _) (by decide) (by decide))).trans
        (sameRelay_of_within (requestSnapshot_within _) (by decide) (by decide))
  next => exact SameRelay.refl s

theorem riseCheck_sameRelay (s : State) : SameRelay s (riseCheck s) := by
  unfold riseCheck
  split
  next h => exact setStatus_sameRelay (by decide) (by rw [h.1]; decide)
  next => exact SameRelay.refl s

theorem compareSupply_sameRelay (s : State) : SameRelay s (compareSupply s) :=
  (fallCheck_sameRelay s).trans (riseCheck_sameRelay _)

theorem acceptReach_sameRelay (r : ReachTable) (s : State) : SameRelay s (acceptReach r s) := by
  have hdraw : SameRelay s (recomputeDraw { s with tables := { s.tables with reach := r } }) :=
    (sameRelay_of_within (tables_within { s.tables with reach := r } s) (by decide) (by decide)).trans
      (sameRelay_of_within (recomputeDraw_within _) (by decide) (by decide))
  unfold acceptReach takeWarnChoice
  split
  · exact hdraw
  · exact hdraw.trans (compareSupply_sameRelay _)

theorem acceptTurnout_parts (t : Turnout) (e : TurnoutEntry) (s : State) :
    Within [.comms, .gates, .gateWaiting, .orders, .free, .tables] s (acceptTurnout t e s) := by
  have hstored : Within [.tables] s (turnoutStored t e s) := tables_within _ s
  rw [acceptTurnout_eq]
  refine Within.trans (within_ite ?_ (hstored.mono (by decide))) ((checkCommand_within _ _).mono (by decide))
  exact (hstored.mono (by decide)).trans ((endTags_within _ _ _).mono (by decide))

theorem allotmentAtWrite_within (i : Fin 64) (s : State) : Within endParts s (allotmentAtWrite i s) :=
  within_ite (((raise_within _ _).mono (by decide)).trans (endTags_within _ _ _)) (Within.refl _ _)

theorem keepAccount_within (i : Fin 64) (old new : AccountEntry) (s : State) :
    Within endParts s (keepAccount i old new s) :=
  within_ite ((endTags_within _ _ _).trans (allotmentAtWrite_within _ _)) (endTags_within _ _ _)

theorem acceptAccount_parts (i : Fin 64) (a : AccountEntry) (s : State) :
    Within [.comms, .gates, .gateWaiting, .orders, .free, .tables, .metering] s (acceptAccount i a s) := by
  have hstored : Within [.tables, .metering, .free] s (accountStored i a s) :=
    within_quiet rfl rfl fun p hp => by cases p <;> first | rfl | simp at hp
  rw [acceptAccount_eq]
  exact within_ite ((hstored.mono (by decide)).trans ((keepAccount_within _ _ _ _).mono (by decide)))
    (hstored.mono (by decide))

theorem Written.sameRelay {s t : State} (h : Written s t) : SameRelay s t := by
  cases h with
  | reach r => exact acceptReach_sameRelay r s
  | turnout t e => exact sameRelay_of_within (acceptTurnout_parts t e s) (by decide) (by decide)
  | account i a => exact sameRelay_of_within (acceptAccount_parts i a s) (by decide) (by decide)
  | timing t => exact sameRelay_of_keeps (acceptTiming_ports t s) (by decide) (by decide)
  | quiet _ h => exact sameRelay_of_within h (by decide) (by decide)

theorem actTableWrite_relayLaw (b : List Byte) {s : State} (hs : RelayLaw s) : RelayLaw (actTableWrite b s) := by
  obtain ⟨t, ht, hreply⟩ := actTableWrite_written b s
  refine (sameRelay_of_within hreply (by decide) (by decide)).relayLaw ?_
  obtain rfl | hwritten := ht
  · exact hs
  · exact hwritten.sameRelay.relayLaw hs

theorem restartStatus_ne_backup (n : Nat) : restartStatus n ≠ .backup := by
  unfold restartStatus
  split <;> decide

/-- A restart closes the relay and loads. -/
theorem restartReading_relayLaw (k : RestartKind) (s : State) : RelayLaw (restartReading k s) :=
  ⟨iff_of_true rfl (.inr rfl), fun h => restartStatus_ne_backup _ h.1⟩

theorem restartWiped_relayLaw (s : State) : RelayLaw (restartWiped s) :=
  ⟨iff_of_true rfl (.inr rfl), fun h => restartStatus_ne_backup _ h.1⟩

theorem backupCheck_relayLaw {s : State} (hs : RelayLaw s) : RelayLaw (backupCheck s) := by
  unfold backupCheck
  split
  · exact ⟨iff_of_true rfl (.inl rfl), fun h => Bool.false_ne_true h.2⟩
  · exact hs

theorem retentionCheck_sameRelay (s : State) : SameRelay s (retentionCheck s) := by
  unfold retentionCheck
  split
  · exact ⟨Iff.rfl, rfl, rfl⟩
  · exact SameRelay.refl s

theorem supplyMoves_relayLaw (n : Nat) {s : State} (hs : RelayLaw s) : RelayLaw (supplyMoves n s) := by
  have hlevel : SameRelay s (setLevel n s) := ⟨Iff.rfl, rfl, rfl⟩
  have hcompared := (hlevel.trans (compareSupply_sameRelay _)).relayLaw hs
  have hsettled := (retentionCheck_sameRelay _).relayLaw (backupCheck_relayLaw hcompared)
  unfold supplyMoves restartCheck
  split
  · exact restartReading_relayLaw _ _
  · exact hsettled

theorem startScan_within (s : State) : Within scanParts s (startScan s) :=
  ((scan_within _ s).mono (by decide)).trans (beginScan_within _)

/-- The end of loading opens the relay of a part that is not stopped. -/
theorem endLoading_relayLaw (l : Loading) (s : State) : RelayLaw (endLoading l s) := by
  -- The status is NORMAL or, after the comparison, LOW.
  have hcompared : ∀ x : State, x.supply.status = .normal → x.loading = none →
      (fallCheck x).supply.status ≠ .backup ∧ (fallCheck x).loading = none := fun x hx hl =>
    ⟨fun h => absurd ((fallCheck_sameRelay x).backup.1 h) (by rw [hx]; decide), (fallCheck_sameRelay x).loading.trans hl⟩
  have hmgmt : (endLoadingMgmt l s).supply.status ≠ .backup ∧ (endLoadingMgmt l s).loading = none := by
    unfold endLoadingMgmt
    dsimp only
    split
    · exact hcompared _ rfl rfl
    · exact hcompared _ rfl rfl
  have hstarted : SameRelay (endLoadingMgmt l s) (startScan (startGates (endLoadingMgmt l s))) :=
    (sameRelay_of_within (startGates_within _) (by decide) (by decide)).trans
      (sameRelay_of_within (startScan_within _) (by decide) (by decide))
  obtain ⟨hstatus, hloading⟩ := hmgmt
  have hopened : (endLoading l s).supply.status ≠ .backup := fun h => hstatus (hstarted.backup.1 h)
  have hloaded : (endLoading l s).loading = none := hstarted.loading.trans hloading
  refine ⟨iff_of_false Bool.false_ne_true ?_, fun h => hopened h.1⟩
  rintro (h | h)
  · exact hopened h
  · rw [hloaded] at h
    exact Bool.false_ne_true h

theorem Op.run_relayLaw (o : Op) {s : State} (hs : RelayLaw s) : RelayLaw (o.run s) := by
  cases o with
  | tableWrite b => exact actTableWrite_relayLaw b hs
  | operationEnd passed =>
    obtain ⟨x, hx, h | h | h⟩ := operationEnd_cases passed s
    · exact (sameRelay_of_keeps (t := Machine.operationEnd passed s) (h ▸ hx.toKeeps) (by decide) (by decide)).relayLaw hs
    · exact (congrArg RelayLaw h).mpr (restartReading_relayLaw _ x)
    · exact (congrArg RelayLaw h).mpr (restartWiped_relayLaw x)
  | supplyMoves level => exact supplyMoves_relayLaw level hs
  | finishLoading =>
    dsimp only [Op.run]
    unfold Machine.finishLoading
    split
    · exact hs
    · exact endLoading_relayLaw _ s
  | forward | misrouted | refusedSource | takeFrom | leaveHolding | endGap | captureSaturation | inactiveEdge | activeEdge
    | transmitStart | transmitEnd | talkerClash | order | cancel | report | reading | confirm | refuse | time | frostCall
    | curtail | resend | busyPending | tableRead | storeCommit | statusRead | eventClear | billRead | orderRead | command
    | passDemand | passConfirm | passRefuse | passRelease | tick | frostEnd | periodClose | holdDeadline | startReached
    | endReached | carriageEvent | replyTimeout | travelTimeout | intervalExpiry | pollTimeout =>
    exact (sameRelay_of_keeps (Op.run_keeps _ s) (by dsimp only [Op.parts]; decide)
      (by dsimp only [Op.parts]; decide)).relayLaw hs

/-! ## The clock -/

/-- What the law of the clock speaks of is as it was. -/
structure SameClock (s t : State) : Prop where
  status : t.clock.status = s.clock.status
  seconds : t.clock.seconds = s.clock.seconds
  run : t.clock.run = s.clock.run
  limit : t.clock.drawLimit = s.clock.drawLimit
  curtail : t.clock.curtail = s.clock.curtail
  reach : t.tables.reach = s.tables.reach

theorem SameClock.clockLaw {s t : State} (h : SameClock s t) (hs : ClockLaw s) : ClockLaw t := by
  unfold ClockLaw
  rw [h.status, h.seconds, h.run, h.limit, h.curtail, h.reach]
  exact hs

theorem sameClock_of_clock {s t : State} (h : t.clock = { s.clock with frostEndRaised := t.clock.frostEndRaised })
    (hreach : t.tables.reach = s.tables.reach) : SameClock s t := by
  constructor
  case reach => exact hreach
  all_goals rw [h]

theorem sameClock_of_keeps {ps : List Part} {s t : State} (h : Keeps ps s t) (hclock : Part.clock ∉ ps)
    (htables : Part.tables ∉ ps) : SameClock s t := by
  have hc : t.clock = s.clock := h.keeps .clock hclock
  exact sameClock_of_clock (by rw [hc]) (congrArg Tables.reach (h.keeps .tables htables))

theorem raiseDue_sameClock (s : State) : SameClock s (raiseDue s) :=
  sameClock_of_clock (raiseDue_clock s)
    (congrArg Tables.reach ((raiseDue_within s).keeps .tables (by decide)))

theorem sameClock_of_due {ps : List Part} {s t : State} (h : WithinDue ps s t) (hclock : Part.clock ∉ ps)
    (htables : Part.tables ∉ ps) : SameClock s t := by
  refine sameClock_of_clock (h.clock hclock) ?_
  obtain ⟨x, hx, rfl | rfl⟩ := h
  · exact congrArg Tables.reach (hx.keeps .tables htables)
  · exact (raiseDue_sameClock x).reach.trans (congrArg Tables.reach (hx.keeps .tables htables))

theorem takeTime_clockLaw (b : List Byte) {s : State} (hs : ClockLaw s) : ClockLaw (takeTime b s) := by
  obtain ⟨hunset, hrun, hlimit⟩ := hs
  have hset : ∀ p n x, ClockLaw (setTime p n { s with billing := x }) := fun p n x =>
    (raiseDue_sameClock _).clockLaw ⟨fun h => absurd (show ClockStatus.set = .unset from h) (by decide), hrun, hlimit⟩
  have hrejected : ClockLaw (rejectTime s) := ⟨hunset, hrun, hlimit⟩
  unfold takeTime
  split
  · unfold wellFormedTime
    split
    · exact hrejected
    · split
      next =>
        unfold timeWhileUnset
        dsimp only
        split_ifs
        · exact hset _ _ s.billing
        · exact hset _ _ _
        · exact hrejected
      next hstatus =>
        unfold timeWhileSet
        split_ifs
        · exact hset _ _ s.billing
        · exact ⟨fun h => absurd (hstatus.symm.trans h) (by decide), hrun, hlimit⟩
        · exact hrejected
  · exact (sameClock_of_keeps (countRefusedSource_within .u s).toKeeps (by decide) (by decide)).clockLaw
      ⟨hunset, hrun, hlimit⟩

theorem takeFrostCall_clockLaw (b : List Byte) {s : State} (hs : ClockLaw s) : ClockLaw (takeFrostCall b s) := by
  have hset : ∀ w, ClockLaw (setFrost w s) := fun w =>
    (raiseDue_sameClock { s with clock := { s.clock with frost := w, frostEndRaised := false } }).clockLaw hs
  unfold takeFrostCall
  dsimp only
  split_ifs
  · exact hs
  · exact hset _
  · exact hset _

theorem satAdd_le {top a b : Nat} : satAdd top a b ≤ top := Nat.min_le_left _ _

theorem tick_clockLaw {s : State} (hs : ClockLaw s) : ClockLaw (tick s) := by
  obtain ⟨hunset, hrun, hlimit⟩ := hs
  unfold tick
  split
  next hstatus => exact ⟨hunset, satAdd_le, hlimit⟩
  next hstatus =>
    refine (raiseDue_sameClock _).clockLaw ?_
    have hset : ∀ p : Prop, s.clock.status = .unset → p := fun _ h => absurd (hstatus.symm.trans h) (by decide)
    unfold advance
    split
    · exact ⟨hset _, satAdd_le, hlimit⟩
    · exact ⟨hset _, satAdd_le, hlimit⟩

theorem frostEnd_clockLaw {s : State} (hs : ClockLaw s) : ClockLaw (frostEnd s) := by
  unfold frostEnd
  split
  · exact hs
  · exact hs

/-- The draw limit computed anew stands as R68 gives it, whatever it was. -/
theorem recomputeDraw_clockLaw {s : State} (hunset : s.clock.status = .unset → s.clock.seconds = 0)
    (hrun : s.clock.run ≤ 4294967295) : ClockLaw (recomputeDraw s) := by
  have hcomputed : ClockLaw
      { s with clock := { s.clock with drawLimit := drawLimitOf s.tables.reach.localDraw s.clock.curtail } } :=
    ⟨hunset, hrun, rfl⟩
  unfold recomputeDraw
  dsimp only
  split
  · exact (sameClock_of_keeps (shed_within _ _).toKeeps (by decide) (by decide)).clockLaw hcomputed
  · exact hcomputed

theorem takeCurtail_clockLaw (b : List Byte) {s : State} (hs : ClockLaw s) : ClockLaw (takeCurtail b s) := by
  have hkept := hs
  obtain ⟨hunset, hrun, -⟩ := hs
  unfold takeCurtail
  split
  · split
    · exact hkept
    · exact recomputeDraw_clockLaw hunset hrun
  · exact hkept

theorem Written.clockLaw {s t : State} (h : Written s t) (hs : ClockLaw s) : ClockLaw t := by
  cases h with
  | reach r =>
    obtain ⟨hunset, hrun, -⟩ := hs
    have hdraw : ClockLaw (recomputeDraw { s with tables := { s.tables with reach := r } }) :=
      recomputeDraw_clockLaw hunset hrun
    unfold acceptReach takeWarnChoice
    split
    · exact hdraw
    · exact (sameClock_of_keeps (compareSupply_within _).toKeeps (by decide) (by decide)).clockLaw hdraw
  | turnout t e =>
    have hstored : ClockLaw (turnoutStored t e s) := hs
    have hended : ClockLaw (endTurnout t (turnoutStored t e s)) :=
      (sameClock_of_keeps (endTags_within _ _ _).toKeeps (by decide) (by decide)).clockLaw hstored
    rw [acceptTurnout_eq]
    refine (sameClock_of_keeps (checkCommand_within _ _).toKeeps (by decide) (by decide)).clockLaw ?_
    split
    · exact hended
    · exact hstored
  | account i a =>
    have hstored : ClockLaw (accountStored i a s) := hs
    rw [acceptAccount_eq]
    split
    · exact (sameClock_of_keeps (keepAccount_within _ _ _ _).toKeeps (by decide) (by decide)).clockLaw hstored
    · exact hstored
  | timing t =>
    have hretimed : Keeps [.comms] { s with tables := { s.tables with timing := t } } (acceptTiming t s) :=
      (retimePort_keeps .u _).trans (retimePort_keeps .d _)
    exact (sameClock_of_keeps hretimed (by decide) (by decide)).clockLaw hs
  | quiet _ h hreach =>
    have hclock : t.clock = s.clock := h.keeps .clock (by decide)
    exact (sameClock_of_clock (by rw [hclock]) hreach).clockLaw hs

theorem actTableWrite_clockLaw (b : List Byte) {s : State} (hs : ClockLaw s) : ClockLaw (actTableWrite b s) := by
  obtain ⟨t, ht, hreply⟩ := actTableWrite_written b s
  refine (sameClock_of_keeps hreply.toKeeps (by decide) (by decide)).clockLaw ?_
  obtain rfl | hwritten := ht
  · exact hs
  · exact hwritten.clockLaw hs

theorem restartReading_clockLaw (k : RestartKind) (s : State) : ClockLaw (restartReading k s) :=
  ⟨fun _ => rfl, Nat.zero_le _, rfl⟩

theorem restartWiped_clockLaw (s : State) : ClockLaw (restartWiped s) := ⟨fun _ => rfl, Nat.zero_le _, rfl⟩

theorem Op.run_clockLaw (o : Op) {s : State} (hs : ClockLaw s) : ClockLaw (o.run s) := by
  have hdue : ∀ {ps t}, WithinDue ps s t → Part.clock ∉ ps → Part.tables ∉ ps → ClockLaw t := fun h hc ht =>
    (sameClock_of_due h hc ht).clockLaw hs
  cases o with
  | order t b => exact hdue (takeOrder_due t b s) (by decide) (by decide)
  | cancel t b => exact hdue (takeCancel_due t b s) (by decide) (by decide)
  | confirm b => exact hdue (takeConfirm_due b s) (by decide) (by decide)
  | refuse b => exact hdue (takeRefuse_due b s) (by decide) (by decide)
  | holdDeadline => exact hdue (takeOrderEvent_due (by decide) _ lapse_due s) (by decide) (by decide)
  | startReached => exact hdue (takeOrderEvent_due (by decide) _ startOrder_due s) (by decide) (by decide)
  | endReached => exact hdue (takeOrderEvent_due (by decide) _ (endOrder_due _) s) (by decide) (by decide)
  | passDemand f => exact hdue (passDemand_due f s) (by decide) (by decide)
  | passConfirm f => exact hdue (passConfirm_due f s) (by decide) (by decide)
  | passRefuse f => exact hdue (passRefuse_due f s) (by decide) (by decide)
  | passRelease f => exact hdue (passRelease_due f s) (by decide) (by decide)
  | carriageEvent k => exact hdue (takeCarriageEvent_due k s) (by decide) (by decide)
  | time b => exact takeTime_clockLaw b hs
  | frostCall b => exact takeFrostCall_clockLaw b hs
  | curtail b => exact takeCurtail_clockLaw b hs
  | tick => exact tick_clockLaw hs
  | frostEnd => exact frostEnd_clockLaw hs
  | tableWrite b => exact actTableWrite_clockLaw b hs
  | operationEnd passed =>
    obtain ⟨x, hx, h | h | h⟩ := operationEnd_cases passed s
    · exact (sameClock_of_keeps (t := Machine.operationEnd passed s) (h ▸ hx.toKeeps) (by decide) (by decide)).clockLaw hs
    · exact (congrArg ClockLaw h).mpr (restartReading_clockLaw _ x)
    · exact (congrArg ClockLaw h).mpr (restartWiped_clockLaw x)
  | supplyMoves level =>
    obtain h | h := supplyMoves_cases level s
    · exact (sameClock_of_keeps h (by decide) (by decide)).clockLaw hs
    · exact (congrArg ClockLaw h).mpr (restartReading_clockLaw _ _)
  | finishLoading =>
    dsimp only [Op.run]
    unfold Machine.finishLoading
    split
    · exact hs
    · exact (sameClock_of_keeps (endLoading_keeps _ s) (by decide) (by decide)).clockLaw hs
  | forward | misrouted | refusedSource | takeFrom | leaveHolding | endGap | captureSaturation | inactiveEdge | activeEdge
    | transmitStart | transmitEnd | talkerClash | report | reading | resend | busyPending | tableRead | storeCommit
    | statusRead | eventClear | billRead | orderRead | command | periodClose | replyTimeout | travelTimeout
    | intervalExpiry | pollTimeout =>
    exact (sameClock_of_keeps (Op.run_keeps _ s) (by dsimp only [Op.parts]; decide)
      (by dsimp only [Op.parts]; decide)).clockLaw hs

/-- Settles O56: both laws are kept by every operation. -/
theorem relayAndClockLawsAreKept : Obligations.RelayAndClockLawsAreKept := fun _ _ h =>
  ⟨fun hs => step_induct (P := RelayLaw) (fun _ _ hs => hs) (fun o _ _ hs => o.run_relayLaw hs) hs h,
    fun hs => step_induct (P := ClockLaw) (fun _ _ hs => hs) (fun o _ _ hs => o.run_clockLaw hs) hs h⟩

end Sys2Proof.Machine

/-! PROOFS. The turnout meters, their copy in the store and the copy in flight (O57). -/

namespace Sys2Proof.Machine

open Sys2Proof.Safety

/-! ## The law by its three places -/

/-- The law of the meters holds of a table of meters. -/
def MetersOk (v : Vector Meters 16) : Prop := ∀ t, meterOk (getAt v t)

/-- The law of the meters holds of a copy, if it is one of ACCOUNT STATE. -/
def ImageOk (i : Image) : Prop := ∀ a, i = .accountState a → MetersOk a.meters

/-- The law of the meters holds of the copy in a region, if there is one. -/
def RegionsOk (g : Regions) : Prop := ∀ r, g.accountState = some r → MetersOk r.content.meters

/-- The law of the meters holds of the store: of its region and of the copy in flight. -/
def StoreOk (x : Store) : Prop := RegionsOk x.regions ∧ ∀ op, x.op = some op → ImageOk op.image

theorem meterLaw_iff {s : State} : MeterLaw s ↔ MetersOk s.metering.meters ∧ StoreOk s.store :=
  ⟨fun ⟨hmeters, hregion, hop⟩ => ⟨hmeters, hregion, fun op h a => hop op a h⟩,
    fun ⟨hmeters, hregion, hop⟩ => ⟨hmeters, hregion, fun op a h => hop op h a⟩⟩

theorem meterLaw_of_keeps {ps : List Part} {s t : State} (h : Keeps ps s t) (hmetering : Part.metering ∉ ps)
    (hstore : Part.store ∉ ps) (hs : MeterLaw s) : MeterLaw t := by
  have hm : t.metering = s.metering := h.keeps .metering hmetering
  have hx : t.store = s.store := h.keeps .store hstore
  unfold MeterLaw
  rw [hm, hx]
  exact hs

/-- Counters and balance are not meters. -/
theorem meterLaw_of_meters {ps : List Part} {s t : State} (h : t.metering.meters = s.metering.meters)
    (hkeeps : Keeps ps s t) (hstore : Part.store ∉ ps) (hs : MeterLaw s) : MeterLaw t := by
  have hx : t.store = s.store := hkeeps.keeps .store hstore
  unfold MeterLaw
  rw [h, hx]
  exact hs

theorem metersOk_zero : MetersOk (.replicate 16 {}) := fun t => by
  rw [getAt_replicate]
  exact ⟨rfl, Nat.zero_le _⟩

/-! ## Intervals -/

/-- An interval adds the same amount to the total and to one of its shares, and never past the maximum (R149). -/
theorem meterAdd_ok (x : CreditTarget) (v : Nat) {m : Meters} (h : meterOk m) : meterOk (meterAdd x v m) := by
  obtain ⟨htotal, hmax⟩ := h
  have hcut : meterCut m v ≤ 4294967295 - m.total := Nat.min_le_right _ _
  cases x with
  | order o =>
    simp only [meterOk, meterAdd]
    omega
  | runOut i =>
    simp only [meterOk, meterAdd]
    omega
  | unordered =>
    simp only [meterOk, meterAdd]
    omega

theorem meterInterval_ok (t : Turnout) (x : CreditTarget) (v : Nat) {s : State} (hs : MetersOk s.metering.meters) :
    MetersOk (meterInterval t x v s).metering.meters := by
  intro u
  unfold meterInterval
  rw [getAt_putAt]
  split
  · exact meterAdd_ok x v (hs t)
  · exact hs u

theorem creditInterval_ok (t : Turnout) (v : Nat) {s : State} (hs : MetersOk s.metering.meters) :
    MetersOk (creditInterval t v s).1.metering.meters := by
  have hmetered : ∀ x, MetersOk (meterInterval t x v s).metering.meters := fun x => meterInterval_ok t x v hs
  unfold creditInterval
  split
  · unfold creditToOrder
    dsimp only
    split
    · exact hmetered _
    · exact hmetered _
  · exact hmetered _
  · unfold creditUnordered
    dsimp only
    split
    · exact hmetered _
    · exact hmetered _

theorem handOn_ok (x : Station) (v : Option Nat) (n : Nat) {s : State} (hs : MetersOk s.metering.meters) :
    MetersOk (handOn x v n s).metering.meters := by
  unfold handOn
  split
  next t v _ =>
    have hended := ((raiseAllotment_within (creditInterval t v s).2 (creditInterval t v s).1).mono
      (qs := endParts) (by decide)).trans (endsAndTrim_within t n ((creditInterval t v s).2.getD []) _)
    have hmetering : (handTurnoutInterval t v n s).metering = (creditInterval t v s).1.metering :=
      hended.keeps .metering (by decide)
    rw [hmetering]
    exact creditInterval_ok t v hs
  next t _ =>
    have hmetering : (takeReading t n s).metering = s.metering := (takeReading_within t n s).keeps .metering (by decide)
    rw [hmetering]
    exact hs
  · split
    · exact hs
    · exact hs
  · exact hs

theorem acceptReading_ok (x : Station) (n : Nat) {s : State} (hs : MetersOk s.metering.meters) :
    MetersOk (acceptReading x n s).metering.meters := by
  have hrated : Within scanParts s (if isOffRating x n s then raise .offRating s else s) :=
    within_ite ((raise_within _ s).mono (by decide)) (Within.refl _ _)
  have hscanned := (hrated.trans ((mapStation_within x (acceptedStation s.clock.run (acceptedRate x n s)) _).mono
    (by decide))).trans (completePoll_within _)
  have hmetering := hscanned.keeps .metering (by decide)
  refine handOn_ok _ _ _ ?_
  exact (congrArg (fun m : Metering => MetersOk m.meters) hmetering).mpr hs

theorem takeHeadReading_meterLaw (x : Station) (b : List Byte) {s : State} (hs : MeterLaw s) :
    MeterLaw (takeHeadReading x b s) := by
  have hmeters := (meterLaw_iff.1 hs).1
  have hstore : (takeHeadReading x b s).store = s.store := (takeHeadReading_within x b s).keeps .store (by decide)
  have hread : MetersOk (takeHeadReading x b s).metering.meters := by
    unfold takeHeadReading
    split
    · split
      · split
        · exact acceptReading_ok _ _ hmeters
        · exact ((missPoll_within _ s).keeps .metering (by decide) : _ = _) ▸ hmeters
      · exact hmeters
    · exact hmeters
  refine meterLaw_iff.2 ⟨hread, ?_⟩
  rw [hstore]
  exact (meterLaw_iff.1 hs).2

/-! ## The store -/

theorem eraseRegion_ok (r : RegionId) {g : Regions} (hg : RegionsOk g) : RegionsOk (eraseRegion r g) := by
  cases r with
  | accountState => exact fun _ h => nomatch h
  | reach | turnouts | rating | accounts | tariff | lineTiming | scan | alertEnables => exact hg

theorem programRegion_ok (mark : Bool) (h : Header) {i : Image} (hi : ImageOk i) {g : Regions} (hg : RegionsOk g) :
    RegionsOk (programRegion mark h i g) := by
  cases i with
  | accountState a =>
    rintro r hr
    obtain rfl := Option.some.inj hr
    exact hi a rfl
  | reach | turnouts | rating | accounts | tariff | lineTiming | scan | alertEnables => exact hg

theorem factoryImage_ok (r : RegionId) : ImageOk (factoryImage r) := by
  cases r with
  | accountState =>
    rintro a ha
    obtain rfl := Image.accountState.inj ha
    exact metersOk_zero
  | reach | turnouts | rating | accounts | tariff | lineTiming | scan | alertEnables => exact fun _ h => nomatch h

theorem copyOf_ok (r : RegionId) {s : State} (hs : MetersOk s.metering.meters) : ImageOk (copyOf r s) := by
  cases r with
  | accountState =>
    rintro a ha
    obtain rfl := Image.accountState.inj ha
    exact hs
  | reach | turnouts | rating | accounts | tariff | lineTiming | scan | alertEnables => exact fun _ h => nomatch h

/-- The taking of a write sequence changes the next sequence and the free values alone. -/
theorem takeSequence_store (s : State) :
    (takeSequence s).store = { s.store with nextSeq := (takeSequence s).store.nextSeq } := by
  unfold takeSequence
  split <;> rfl

/-- The store after an operation has begun. -/
theorem beginWrite_store (n : Nat) (i : Image) (c : Option Byte) (b : Bool) (s : State) :
    (beginWrite n i c b s).store
      = { s.store with
          nextSeq := (takeSequence s).store.nextSeq
          regions := eraseRegion (imageRegion i) s.store.regions
          op := some ⟨⟨s.store.nextSeq, n⟩, i, c, b⟩ } := by
  unfold beginWrite
  dsimp only
  rw [takeSequence_store]

theorem beginWrite_meterLaw (n : Nat) {i : Image} (c : Option Byte) (b : Bool) (hi : ImageOk i) {s : State}
    (hs : MeterLaw s) : MeterLaw (beginWrite n i c b s) := by
  obtain ⟨hmeters, hregions, -⟩ := meterLaw_iff.1 hs
  have hmetering : (beginWrite n i c b s).metering = s.metering :=
    (beginWrite_within n i c b s).keeps .metering (by decide)
  rw [meterLaw_iff, hmetering, beginWrite_store]
  refine ⟨hmeters, eraseRegion_ok _ hregions, ?_⟩
  rintro op hop
  obtain rfl := Option.some.inj hop
  exact hi

theorem beginSnapshot_meterLaw {s : State} (hs : MeterLaw s) : MeterLaw (beginSnapshot s) :=
  beginWrite_meterLaw _ _ _ (copyOf_ok .accountState hs.1) (s := { s with store := { s.store with waiting := false } }) hs

theorem requestSnapshot_meterLaw {s : State} (hs : MeterLaw s) : MeterLaw (requestSnapshot s) := by
  unfold requestSnapshot
  split
  · exact hs
  · split
    · exact beginSnapshot_meterLaw hs
    next h => exact ⟨hs.1, hs.2.1, fun op a hop => hs.2.2 op a hop⟩

theorem beginErase_meterLaw (r : RegionId) {s : State} (hs : MeterLaw s) : MeterLaw (beginErase r s) := by
  obtain ⟨hmeters, hregions, -⟩ := meterLaw_iff.1 hs
  exact meterLaw_iff.2 ⟨hmeters, eraseRegion_ok r hregions, fun _ h => nomatch h⟩

theorem beginWipeWrite_meterLaw (r : RegionId) {s : State} (hs : MeterLaw s) : MeterLaw (beginWipeWrite r s) :=
  beginWrite_meterLaw 0 none false (factoryImage_ok r) (s := { s with store := { s.store with wipe := some (.writing r) } })
    hs

theorem requestWipe_meterLaw {s : State} (hs : MeterLaw s) : MeterLaw (requestWipe s) := by
  unfold requestWipe
  split
  · exact beginErase_meterLaw _ hs
  · exact hs

theorem settleOp_meterLaw {op : StoreOp} (passed : Bool) {s : State} (hop : s.store.op = some op) (hs : MeterLaw s) :
    MeterLaw (settleOp op passed s) := by
  obtain ⟨hmeters, hregions, hops⟩ := meterLaw_iff.1 hs
  exact meterLaw_iff.2 ⟨hmeters, programRegion_ok passed op.header (hops op hop) hregions, fun _ h => nomatch h⟩

/-! ## Restarts -/

theorem metersOk_of_found {g : Regions} (hg : RegionsOk g) (accounts : Vector AccountEntry 64) :
    MetersOk (loadMetering (findRegions g) accounts).meters := by
  unfold loadMetering
  dsimp only
  split
  next h a hfound =>
    have hcomplete := (found_iff accountImageBytes g.accountState h a).1 hfound
    exact hg _ hcomplete
  next => exact metersOk_zero

theorem restartReading_meterLaw (k : RestartKind) {s : State} (hs : MeterLaw s) : MeterLaw (restartReading k s) := by
  obtain ⟨-, hregions, -⟩ := meterLaw_iff.1 hs
  exact meterLaw_iff.2 ⟨metersOk_of_found hregions _, hregions, fun _ h => nomatch h⟩

theorem restartWiped_meterLaw {s : State} (hs : MeterLaw s) : MeterLaw (restartWiped s) := by
  obtain ⟨-, hregions, -⟩ := meterLaw_iff.1 hs
  exact meterLaw_iff.2 ⟨metersOk_zero, hregions, fun _ h => nomatch h⟩

/-! ## Operation ends -/

theorem raiseFailed_meterLaw (passed : Bool) {s : State} (hs : MeterLaw s) : MeterLaw (raiseFailed passed s) :=
  meterLaw_of_keeps (raiseFailed_within passed s).toKeeps (by decide) (by decide) hs

theorem afterErase_meterLaw (r : RegionId) {s : State} (hs : MeterLaw s) : MeterLaw (afterErase r s) := by
  unfold afterErase
  split
  · exact beginErase_meterLaw _ hs
  · exact beginWipeWrite_meterLaw _ hs

theorem operationEnd_meterLaw (passed : Bool) {s : State} (hs : MeterLaw s) : MeterLaw (operationEnd passed s) := by
  have hsettled : ∀ op, s.store.op = some op → MeterLaw (raiseFailed passed (settleOp op passed s)) := fun op hop =>
    raiseFailed_meterLaw _ (settleOp_meterLaw passed hop hs)
  unfold operationEnd
  split
  · exact afterErase_meterLaw _ hs
  next r op _ hop =>
    have hnoted := hsettled op hop
    unfold wipeWriteEnd afterWipeWrite
    dsimp only
    split
    · exact beginWipeWrite_meterLaw _ (s := { raiseFailed passed (settleOp op passed s) with store := _ }) hnoted
    · exact restartWiped_meterLaw (s := { raiseFailed passed (settleOp op passed s) with store := _ }) hnoted
  next op hop _ _ =>
    have hreplied : MeterLaw (sendCommitEnd op passed (raiseFailed passed (settleOp op passed s))) :=
      meterLaw_of_keeps (sendCommitEnd_within op passed _).toKeeps (by decide) (by decide) (hsettled op hop)
    unfold afterOp
    split_ifs
    · exact restartReading_meterLaw _ hreplied
    · exact beginErase_meterLaw _ hreplied
    · exact beginSnapshot_meterLaw hreplied
    · exact hreplied
  · exact hs

/-! ## Period close, requests and the supply -/

theorem cutMetering_meterLaw (n : Nat) {s : State} (hs : MeterLaw s) : MeterLaw (cutMetering n s) :=
  ⟨metersOk_zero, hs.2⟩

theorem completeClose_meterLaw (held : Bool) (n : Nat) (rest : List Nat) {s : State} (hs : MeterLaw s) :
    MeterLaw (completeClose held n rest s) :=
  requestSnapshot_meterLaw (s := { cutMetering n s with billing := _ }) (cutMetering_meterLaw n hs)

theorem raise_meterLaw (f : Flag) {s : State} (hs : MeterLaw s) : MeterLaw (raise f s) :=
  meterLaw_of_keeps (raise_within f s).toKeeps (by decide) (by decide) hs

theorem completionTest_meterLaw (held : Bool) (k : Nat) {s : State} (hs : MeterLaw s) :
    MeterLaw (completionTest held k s) := by
  induction k generalizing s with
  | zero => exact hs
  | succ k ih =>
    unfold completionTest
    split
    · exact hs
    · split
      · exact ih (completeClose_meterLaw _ _ _ hs)
      · exact raise_meterLaw _ hs

theorem takeClose_meterLaw (n : Nat) {s : State} (hs : MeterLaw s) : MeterLaw (takeClose n s) := by
  unfold takeClose
  dsimp only
  split_ifs
  · exact completionTest_meterLaw _ _ hs
  · exact completionTest_meterLaw _ _ (raise_meterLaw _ hs)
  · exact completionTest_meterLaw _ _ (raise_meterLaw _ hs)

theorem periodCloseEvent_meterLaw {s : State} (hs : MeterLaw s) : MeterLaw (periodCloseEvent s) := by
  unfold periodCloseEvent
  split
  · exact hs
  · exact takeClose_meterLaw _ hs

theorem answer_meterLaw (q : Byte) (k r : Nat) (x : List Byte) {s : State} (hs : MeterLaw s) :
    MeterLaw (answer q k r x s) :=
  meterLaw_of_keeps (answer_within q k r x s).toKeeps (by decide) (by decide) hs

theorem actBillRead_meterLaw (b : List Byte) {s : State} (hs : MeterLaw s) : MeterLaw (actBillRead b s) := by
  unfold actBillRead
  dsimp only
  split
  · exact answer_meterLaw _ _ _ _ hs
  · split
    · exact answer_meterLaw _ _ _ _ hs
    next oldest rest _ =>
      unfold readBill
      split
      · split
        · exact completionTest_meterLaw _ _ (answer_meterLaw _ _ _ _ (s := { s with billing := _ }) hs)
        · exact answer_meterLaw _ _ _ _ hs
      · split
        · exact answer_meterLaw _ _ _ _ hs
        · exact answer_meterLaw _ _ _ _ hs

theorem actStoreCommit_meterLaw (b : List Byte) {s : State} (hs : MeterLaw s) : MeterLaw (actStoreCommit b s) := by
  have hrefused : ∀ q k n, MeterLaw (refuse q k n s) := fun _ _ _ => answer_meterLaw _ _ _ _ hs
  unfold actStoreCommit
  dsimp only
  split
  · exact hrefused _ _ _
  next r _ =>
    split_ifs
    · exact hrefused _ _ _
    · exact meterLaw_of_keeps (busy_within _ _ _ s).toKeeps (by decide) (by decide) hs
    · have hreplied := answer_meterLaw (requestNumber b) Kind.storeCommit Kind.mgmtReply
        (mgmtReplyBody (requestNumber b) Kind.storeCommit Result.accepted (be 1 (regionCode r))) hs
      exact beginWrite_meterLaw _ _ _ (copyOf_ok r hreplied.1) hreplied

theorem actCommand_meterLaw (b : List Byte) {s : State} (hs : MeterLaw s) : MeterLaw (actCommand b s) := by
  have hreply : ∀ q k n x (t : State), MeterLaw t → MeterLaw (reply q k n x t) := fun _ _ _ _ _ => answer_meterLaw _ _ _ _
  have hmgmt : ∀ m, MeterLaw (setMgmt m s) := fun _ => hs
  unfold actCommand
  dsimp only
  split
  · exact hreply _ _ _ _ _ hs
  · split
    · exact requestSnapshot_meterLaw (hreply _ _ _ _ _ (hmgmt _))
    · exact hreply _ _ _ _ { s with billing := lockTariff s.billing } hs
    · unfold actWipe
      split
      · exact requestWipe_meterLaw (hreply _ _ _ _ _ (hmgmt _))
      · exact hreply _ _ _ _ _ hs
    · exact hreply _ _ _ _ _ hs

theorem fallCheck_meterLaw {s : State} (hs : MeterLaw s) : MeterLaw (fallCheck s) := by
  unfold fallCheck passToLow
  split
  · split
    · exact hs
    · exact requestSnapshot_meterLaw (raise_meterLaw _ (s := setStatus .low s) hs)
  · exact hs

theorem compareSupply_meterLaw {s : State} (hs : MeterLaw s) : MeterLaw (compareSupply s) := by
  unfold compareSupply riseCheck
  split
  · exact fallCheck_meterLaw hs
  · exact fallCheck_meterLaw hs

theorem supplyMoves_meterLaw (n : Nat) {s : State} (hs : MeterLaw s) : MeterLaw (supplyMoves n s) := by
  have hcompared : MeterLaw (compareSupply (setLevel n s)) := compareSupply_meterLaw (s := setLevel n s) hs
  have hstopped : MeterLaw (backupCheck (compareSupply (setLevel n s))) := by
    unfold backupCheck
    split
    · exact ⟨hcompared.1, hcompared.2.1, fun _ _ h => nomatch h⟩
    · exact hcompared
  have hsettled : MeterLaw (supplySettles n s) :=
    meterLaw_of_keeps (retentionCheck_within _).toKeeps (by decide) (by decide) hstopped
  unfold supplyMoves restartCheck
  split
  · exact restartReading_meterLaw _ hsettled
  · exact hsettled

theorem endLoading_meterLaw (l : Loading) {s : State} (hs : MeterLaw s) : MeterLaw (endLoading l s) := by
  have hmgmt : MeterLaw (endLoadingMgmt l s) := by
    unfold endLoadingMgmt
    dsimp only
    refine raise_meterLaw _ ?_
    split
    · exact raise_meterLaw _ (fallCheck_meterLaw (s := { s with mgmt := _, comms := _, supply := _, loading := none }) hs)
    · exact fallCheck_meterLaw (s := { s with mgmt := _, comms := _, supply := _, loading := none }) hs
  have hstarted : MeterLaw (startScan (startGates (endLoadingMgmt l s))) :=
    meterLaw_of_keeps (startScan_within _).toKeeps (by decide) (by decide)
      (meterLaw_of_keeps (startGates_within _).toKeeps (by decide) (by decide) hmgmt)
  exact hstarted

theorem enterStart_meters (a : Nat) (s : State) : (enterStart a s).metering.meters = s.metering.meters := by
  unfold enterStart
  split <;> rfl

theorem Written.meterLaw {s t : State} (h : Written s t) (hs : MeterLaw s) : MeterLaw t := by
  cases h with
  | reach r =>
    have hdraw : MeterLaw (recomputeDraw { s with tables := { s.tables with reach := r } }) :=
      meterLaw_of_keeps (recomputeDraw_within _).toKeeps (by decide) (by decide)
        (s := { s with tables := { s.tables with reach := r } }) hs
    unfold acceptReach takeWarnChoice
    split
    · exact hdraw
    · exact compareSupply_meterLaw hdraw
  | turnout t e => exact meterLaw_of_keeps (acceptTurnout_parts t e s).toKeeps (by decide) (by decide) hs
  | account i a =>
    have hstored : MeterLaw (accountStored i a s) := hs
    rw [acceptAccount_eq]
    split
    · exact meterLaw_of_keeps (keepAccount_within _ _ _ _).toKeeps (by decide) (by decide) hstored
    · exact hstored
  | timing t => exact meterLaw_of_keeps (acceptTiming_ports t s) (by decide) (by decide) hs
  | quiet _ h => exact meterLaw_of_keeps h.toKeeps (by decide) (by decide) hs

theorem actTableWrite_meterLaw (b : List Byte) {s : State} (hs : MeterLaw s) : MeterLaw (actTableWrite b s) := by
  obtain ⟨t, ht, hreply⟩ := actTableWrite_written b s
  refine meterLaw_of_keeps hreply.toKeeps (by decide) (by decide) ?_
  obtain rfl | hwritten := ht
  · exact hs
  · exact hwritten.meterLaw hs

/-! ## The order unit -/

/-- The order unit changes counters, and no meters. -/
theorem startOrder_meters (o : OrderRec) (s : State) : (startOrder o s).metering.meters = s.metering.meters := by
  unfold startOrder
  split
  next q _ =>
    split
    next c _ => exact congrArg Metering.meters ((endOrder_within c o s).keeps .metering (by decide))
    next =>
      have hstarted := enterStart_meters o.account
        { s with orders := setOrderState o.tag (.running q 0 (startCharge o.account s)) s.orders }
      refine Eq.trans (congrArg Metering.meters ?_) hstarted
      exact (((requestOpening_within _ _ _ _).mono (by decide)).trans
        (((sendNotice_within _ _ _ _).mono (by decide)).trans
          ((raiseDue_within _).mono (qs := [.comms, .gates, .gateWaiting, .clock, .orders, .carriage])
            (by decide)))).keeps .metering (by decide)
  next => rfl

theorem meterLaw_of_due {ps : List Part} {s t : State} (h : WithinDue ps s t) (hmetering : Part.metering ∉ ps)
    (hstore : Part.store ∉ ps) (hs : MeterLaw s) : MeterLaw t := by
  obtain ⟨x, hx, ht⟩ := h
  have hkept : MeterLaw x := meterLaw_of_keeps hx.toKeeps hmetering hstore hs
  obtain rfl | rfl := ht
  · exact hkept
  · exact meterLaw_of_keeps (raiseDue_within x).toKeeps (by decide) (by decide) hkept

theorem takeOrderEvent_meterLaw (k : OrderEventKind) {f : OrderRec → State → State}
    (hf : ∀ o t, MeterLaw t → MeterLaw (f o t)) {s : State} (hs : MeterLaw s) : MeterLaw (takeOrderEvent k f s) := by
  unfold takeOrderEvent
  split
  · exact hf _ _ hs
  · exact hs

/-! ## The law -/

theorem Op.run_meterLaw (o : Op) {s : State} (hs : MeterLaw s) : MeterLaw (o.run s) := by
  cases o with
  | order t b => exact meterLaw_of_due (takeOrder_due t b s) (by decide) (by decide) hs
  | cancel t b => exact meterLaw_of_due (takeCancel_due t b s) (by decide) (by decide) hs
  | confirm b => exact meterLaw_of_due (takeConfirm_due b s) (by decide) (by decide) hs
  | refuse b => exact meterLaw_of_due (takeRefuse_due b s) (by decide) (by decide) hs
  | holdDeadline =>
    exact meterLaw_of_due (takeOrderEvent_due (by decide) _ lapse_due s) (by decide) (by decide) hs
  | endReached =>
    exact meterLaw_of_due (takeOrderEvent_due (by decide) _ (endOrder_due _) s) (by decide) (by decide) hs
  | startReached =>
    refine takeOrderEvent_meterLaw _ (fun o t ht => ?_) hs
    exact meterLaw_of_meters (startOrder_meters o t) (startOrder_within o t).toKeeps (by decide) ht
  | reading x b => exact takeHeadReading_meterLaw x b hs
  | tableWrite b => exact actTableWrite_meterLaw b hs
  | storeCommit b => exact actStoreCommit_meterLaw b hs
  | billRead b => exact actBillRead_meterLaw b hs
  | command b => exact actCommand_meterLaw b hs
  | periodClose => exact periodCloseEvent_meterLaw hs
  | operationEnd passed => exact operationEnd_meterLaw passed hs
  | supplyMoves level => exact supplyMoves_meterLaw level hs
  | finishLoading =>
    dsimp only [Op.run]
    unfold Machine.finishLoading
    split
    · exact hs
    · exact endLoading_meterLaw _ hs
  | forward | misrouted | refusedSource | takeFrom | leaveHolding | endGap | captureSaturation | inactiveEdge | activeEdge
    | transmitStart | transmitEnd | talkerClash | report | time | frostCall | curtail | resend | busyPending | tableRead
    | statusRead | eventClear | orderRead | passDemand | passConfirm | passRefuse | passRelease | tick | frostEnd
    | carriageEvent | replyTimeout | travelTimeout | intervalExpiry | pollTimeout =>
    exact meterLaw_of_keeps (Op.run_keeps _ s) (by dsimp only [Op.parts]; decide) (by dsimp only [Op.parts]; decide) hs

/-- Settles O57: an interval adds to a total and to one of its shares alike, and every copy is one of lawful meters. -/
theorem meterLawIsKept : Obligations.MeterLawIsKept := fun _ _ hs h =>
  step_induct (P := MeterLaw) (fun _ _ hs => hs) (fun o _ _ hs => o.run_meterLaw hs) hs h

end Sys2Proof.Machine

/-! PROOFS. The transmit queues and the holdings (O55). -/

namespace Sys2Proof.Machine

open Sys2Proof.Safety

/-! ## Port units in form -/

/-- A port unit keeps the form of its queue and the places of its holding. -/
def UnitOk (x : PortUnit) : Prop := queueOk x.queue ∧ x.holding.length ≤ 2

theorem queueLaw_iff {s : State} : QueueLaw s ↔ ∀ p, UnitOk (portOf p s.comms) := Iff.rfl

theorem unitOk_empty : UnitOk {} := ⟨⟨Nat.zero_le _, List.Pairwise.nil⟩, Nat.zero_le _⟩

/-- Talk keeps the law: what arrives at a queue joins it in form, and holdings stay (R21, R22). -/
theorem queueLaw_of_talk {s t : State} (h : Talk s.comms t.comms) (hs : QueueLaw s) : QueueLaw t := by
  intro p
  obtain ⟨hholding, -, -, -, -, -, -, hqueue⟩ := h.port p
  obtain ⟨hok, hplaces⟩ := hs p
  exact ⟨hqueue hok, (congrArg (fun l => List.length l ≤ 2) hholding).mpr hplaces⟩

theorem queueLaw_of_within {ps : List Part} {s t : State} (h : Within ps s t) (hs : QueueLaw s) : QueueLaw t :=
  queueLaw_of_talk h.talks hs

theorem queueLaw_of_comms {s t : State} (h : t.comms = s.comms) (hs : QueueLaw s) : QueueLaw t :=
  queueLaw_of_talk (h ▸ Talk.refl _) hs

theorem queueLaw_of_empty {s : State} (h : s.comms = {}) : QueueLaw s := by
  rw [queueLaw_iff, h]
  intro p
  cases p
  · exact unitOk_empty
  · exact unitOk_empty

/-- A change of one port unit that keeps its form keeps the law. -/
theorem mapUnit_queueLaw {p : Port} {f : PortUnit → PortUnit} {s : State} (hf : UnitOk (f (portOf p s.comms)))
    (hs : QueueLaw s) : QueueLaw (mapUnit p f s) := by
  intro q
  cases p with
  | u =>
    cases q with
    | u => exact hf
    | d => exact hs .d
  | d =>
    cases q with
    | u => exact hs .u
    | d => exact hf

/-- A change that leaves queue and holding alone keeps the law. -/
theorem mapUnit_line_queueLaw {p : Port} {f : PortUnit → PortUnit} {s : State} (hs : QueueLaw s)
    (hqueue : ∀ x, (f x).queue = x.queue := by intro; rfl) (hholding : ∀ x, (f x).holding = x.holding := by intro; rfl) :
    QueueLaw (mapUnit p f s) := by
  refine mapUnit_queueLaw ?_ hs
  unfold UnitOk
  rw [hqueue, hholding]
  exact hs p

/-! ## The port commands -/

theorem leaveHolding_queueLaw (p : Port) {s : State} (hs : QueueLaw s) : QueueLaw (leaveHolding p s) := by
  obtain ⟨hqueue, hplaces⟩ := hs p
  refine mapUnit_queueLaw ⟨hqueue, ?_⟩ hs
  have htail : (unitAt p s).holding.tail.length = (unitAt p s).holding.length - 1 := List.length_tail
  exact htail.trans_le ((Nat.sub_le _ _).trans hplaces)

theorem countError_queueLaw (p : Port) (e : ReceiverError) {s : State} (hs : QueueLaw s) :
    QueueLaw (countError p e s) := by
  cases e with
  | symbol => exact queueLaw_of_within ((count_within _ _ s).trans (raise_within _ _)) hs
  | framing => exact queueLaw_of_within ((count_within _ _ s).trans (raise_within _ _)) hs

theorem giveSymbol_queueLaw (p : Port) (y : Symbol) {s : State} (hs : QueueLaw s) : QueueLaw (giveSymbol p y s) := by
  have hgiven : QueueLaw (mapUnit p (fun x => { x with receiver := (receive (unitAt p s).receiver y).1 }) s) :=
    mapUnit_line_queueLaw hs
  unfold giveSymbol
  dsimp only
  split
  · exact hgiven
  · exact countError_queueLaw _ _ hgiven

/-- A completed frame joins a holding that has a free place alone (R13). -/
theorem offerFrame_queueLaw (p : Port) (bytes : List Byte) (mark : Bool) {s : State} (hs : QueueLaw s) :
    QueueLaw (offerFrame p bytes mark s) := by
  have hcounted : ∀ f, QueueLaw (raise .lineFault (count p f s)) := fun f =>
    queueLaw_of_within ((count_within _ _ s).trans (raise_within _ _)) hs
  unfold offerFrame
  split
  · exact hcounted _
  next f _ =>
    split
    next hroom =>
      refine mapUnit_queueLaw ⟨(hs p).1, ?_⟩ hs
      rw [List.length_append]
      exact hroom
    next => exact hcounted _

theorem quietReaches_queueLaw (p : Port) (quiet : Nat) {s : State} (hs : QueueLaw s) :
    QueueLaw (quietReaches p quiet s) := by
  have hcounted : ∀ n, QueueLaw (mapUnit p (fun x => { x with counter := n }) s) := fun n => mapUnit_line_queueLaw hs
  have hgap : ∀ t : State, QueueLaw t → QueueLaw (endGapEvent p t) := by
    intro t ht
    have hidle : QueueLaw (mapUnit p (fun x => { x with gapRaised := true, receiver := .idle }) t) :=
      mapUnit_line_queueLaw ht
    unfold endGapEvent
    dsimp only
    split
    · split
      · exact offerFrame_queueLaw _ _ _ hidle
      · exact countError_queueLaw _ _ hidle
    · exact hidle
  unfold quietReaches
  dsimp only
  split
  · exact hgap _ (hcounted _)
  · exact hcounted _

theorem endGap_queueLaw (p : Port) {s : State} (hs : QueueLaw s) : QueueLaw (endGap p s) := by
  unfold endGap
  split
  · exact quietReaches_queueLaw _ _ hs
  · exact hs

theorem captureSaturation_queueLaw (p : Port) {s : State} (hs : QueueLaw s) : QueueLaw (captureSaturation p s) := by
  unfold captureSaturation
  dsimp only
  split
  · exact giveSymbol_queueLaw _ _ (mapUnit_line_queueLaw hs)
  · exact hs

theorem inactiveEdge_queueLaw (p : Port) (width : Nat) {s : State} (hs : QueueLaw s) :
    QueueLaw (inactiveEdge p width s) := by
  have hedge : QueueLaw (mapUnit p (fun x => { x with counter := 0, active := false, gapRaised := false }) s) :=
    mapUnit_line_queueLaw hs
  unfold inactiveEdge
  dsimp only
  split
  · exact hs
  · split
    · exact giveSymbol_queueLaw _ _ hedge
    · exact hedge

theorem activeEdge_queueLaw (p : Port) {s : State} (hs : QueueLaw s) : QueueLaw (activeEdge p s) := by
  unfold activeEdge
  split
  · exact hs
  · exact mapUnit_line_queueLaw hs

theorem transmitEnd_queueLaw (p : Port) {s : State} (hs : QueueLaw s) : QueueLaw (transmitEnd p s) := by
  unfold transmitEnd
  split
  · exact mapUnit_line_queueLaw hs
  · exact hs

theorem talkerClash_queueLaw (p : Port) {s : State} (hs : QueueLaw s) : QueueLaw (talkerClash p s) := by
  unfold talkerClash
  split
  · exact queueLaw_of_within (raise_within _ _) (mapUnit_line_queueLaw hs)
  · exact hs

/-- A queue without its head is in form. -/
theorem queueOk_tail {f : Frame} {q : List Frame} (h : queueOk (f :: q)) : queueOk q := by
  obtain ⟨hlength, hclasses⟩ := h
  exact ⟨(Nat.le_succ _).trans hlength, (List.pairwise_cons.1 hclasses).2⟩

theorem tryTransmit_queueLaw (p : Port) {s : State} (hs : QueueLaw s) : QueueLaw (tryTransmit p s) := by
  unfold tryTransmit
  dsimp only
  split
  · exact hs
  next head rest hqueue =>
    split
    · have hstarted : QueueLaw (mapUnit p (startedUnit s.tables.timing head rest) s) := by
        obtain ⟨hok, hplaces⟩ := hs p
        rw [hqueue] at hok
        exact mapUnit_queueLaw ⟨queueOk_tail hok, hplaces⟩ hs
      cases p with
      | u => exact hstarted
      | d => exact queueLaw_of_within (placeWaiting_within _) hstarted
    · exact hs

theorem transmitStart_queueLaw (p : Port) (quiet : Nat) {s : State} (hs : QueueLaw s) :
    QueueLaw (transmitStart p quiet s) := by
  unfold transmitStart
  split
  · exact tryTransmit_queueLaw _ (quietReaches_queueLaw _ _ hs)
  · exact hs

/-! ## LINE TIMING, the stop and the end of loading -/

theorem retimePort_queueLaw (p : Port) {s : State} (hs : QueueLaw s) : QueueLaw (retimePort p s) := by
  unfold retimePort
  split
  · exact quietReaches_queueLaw _ _ hs
  · exact hs

theorem Written.queueLaw {s t : State} (h : Written s t) (hs : QueueLaw s) : QueueLaw t := by
  cases h with
  | reach r => exact queueLaw_of_within (acceptReach_within r s) hs
  | turnout t e => exact queueLaw_of_within (acceptTurnout_parts t e s) hs
  | account i a => exact queueLaw_of_within (acceptAccount_parts i a s) hs
  | timing t =>
    exact retimePort_queueLaw _ (retimePort_queueLaw _ (s := { s with tables := { s.tables with timing := t } }) hs)
  | quiet _ h => exact queueLaw_of_within h hs

theorem actTableWrite_queueLaw (b : List Byte) {s : State} (hs : QueueLaw s) : QueueLaw (actTableWrite b s) := by
  obtain ⟨t, ht, hreply⟩ := actTableWrite_written b s
  refine queueLaw_of_within hreply ?_
  obtain rfl | hwritten := ht
  · exact hs
  · exact hwritten.queueLaw hs

theorem stopPart_queueLaw {s : State} (hs : QueueLaw s) : QueueLaw (stopPart s) := by
  intro p
  cases p with
  | u => exact hs .u
  | d => exact hs .d

theorem supplyMoves_queueLaw (n : Nat) {s : State} (hs : QueueLaw s) : QueueLaw (supplyMoves n s) := by
  have hcompared : QueueLaw (compareSupply (setLevel n s)) :=
    queueLaw_of_within ((setLevel_within n s).trans (compareSupply_within _)) hs
  have hstopped : QueueLaw (backupCheck (compareSupply (setLevel n s))) := by
    unfold backupCheck
    split
    · exact stopPart_queueLaw hcompared
    · exact hcompared
  unfold supplyMoves restartCheck
  split
  · exact queueLaw_of_empty rfl
  · exact queueLaw_of_within (retentionCheck_within _) hstopped

theorem endLoading_queueLaw (l : Loading) {s : State} (hs : QueueLaw s) : QueueLaw (endLoading l s) := by
  have hmgmt : QueueLaw (endLoadingMgmt l s) := by
    unfold endLoadingMgmt
    dsimp only
    refine queueLaw_of_within (raise_within _ _) ?_
    have hcleared : ∀ m x, QueueLaw { s with mgmt := m, comms := { s.comms with flags := 0 }, supply := x, loading := none } :=
      fun _ _ => queueLaw_of_talk ((Talk.refl _).flagged 0) hs
    split
    · exact queueLaw_of_within (raise_within _ _) (queueLaw_of_within (fallCheck_within _) (hcleared _ _))
    · exact queueLaw_of_within (fallCheck_within _) (hcleared _ _)
  exact queueLaw_of_comms (s := startScan (startGates (endLoadingMgmt l s))) rfl
    (queueLaw_of_within (startScan_within _) (queueLaw_of_within (startGates_within _) hmgmt))

/-! ## The law -/

theorem Op.run_queueLaw (o : Op) {s : State} (hs : QueueLaw s) : QueueLaw (o.run s) := by
  have hwithin : ∀ {ps t}, Within ps s t → QueueLaw t := fun h => queueLaw_of_within h hs
  cases o with
  | forward p f => exact hwithin (forward_within p f s)
  | misrouted p => exact hwithin (countMisrouted_within p s)
  | refusedSource p => exact hwithin (countRefusedSource_within p s)
  | takeFrom p => exact queueLaw_of_comms (s := s) rfl hs
  | leaveHolding p => exact leaveHolding_queueLaw p hs
  | endGap p => exact endGap_queueLaw p hs
  | captureSaturation p => exact captureSaturation_queueLaw p hs
  | inactiveEdge p width => exact inactiveEdge_queueLaw p width hs
  | activeEdge p => exact activeEdge_queueLaw p hs
  | transmitStart p quiet => exact transmitStart_queueLaw p quiet hs
  | transmitEnd p => exact transmitEnd_queueLaw p hs
  | talkerClash p => exact talkerClash_queueLaw p hs
  | order t b => exact hwithin (takeOrder_within t b s)
  | cancel t b => exact hwithin (takeCancel_within t b s)
  | report t b => exact hwithin (takeReport_within t b s)
  | reading x b => exact hwithin (takeHeadReading_within x b s)
  | confirm b => exact hwithin (takeConfirm_within b s)
  | refuse b => exact hwithin (takeRefuse_within b s)
  | time b => exact hwithin (takeTime_within b s)
  | frostCall b => exact hwithin (takeFrostCall_within b s)
  | curtail b => exact hwithin (takeCurtail_within b s)
  | resend r => exact hwithin (resend_within r s)
  | busyPending k b => exact hwithin (busyPending_within k b s)
  | tableWrite b => exact actTableWrite_queueLaw b hs
  | tableRead b => exact hwithin (actTableRead_within b s)
  | storeCommit b => exact hwithin (actStoreCommit_parts b s)
  | statusRead b => exact hwithin (actStatusRead_within b s)
  | eventClear b => exact hwithin (actEventClear_within b s)
  | billRead b => exact hwithin (actBillRead_parts b s)
  | orderRead b => exact hwithin (actOrderRead_within b s)
  | command b => exact hwithin (actCommand_parts b s)
  | passDemand f => exact hwithin (passDemand_within f s)
  | passConfirm f => exact hwithin (passConfirm_within f s)
  | passRefuse f => exact hwithin (passRefuse_within f s)
  | passRelease f => exact hwithin (passRelease_within f s)
  | tick => exact hwithin (tick_within s)
  | frostEnd => exact hwithin (frostEnd_within s)
  | periodClose => exact hwithin (periodCloseEvent_within s)
  | holdDeadline => exact hwithin (takeOrderEvent_within _ lapse_within s)
  | startReached => exact hwithin (takeOrderEvent_within _ startOrder_within s)
  | endReached => exact hwithin (takeOrderEvent_within _ (fun o t => (endOrder_within _ o t).mono (by decide)) s)
  | carriageEvent k => exact hwithin (takeCarriageEvent_within k s)
  | replyTimeout t => exact hwithin (replyTimeout_within t s)
  | travelTimeout t => exact hwithin (travelTimeout_within t s)
  | intervalExpiry => exact hwithin (intervalExpiry_within s)
  | pollTimeout => exact hwithin (pollTimeout_within s)
  | operationEnd passed =>
    obtain ⟨x, hx, h | h | h⟩ := operationEnd_cases passed s
    · exact hwithin (t := Machine.operationEnd passed s) (h ▸ hx)
    · exact (congrArg QueueLaw h).mpr (queueLaw_of_empty rfl)
    · exact (congrArg QueueLaw h).mpr (queueLaw_of_empty rfl)
  | supplyMoves level => exact supplyMoves_queueLaw level hs
  | finishLoading =>
    dsimp only [Op.run]
    unfold Machine.finishLoading
    split
    · exact hs
    · exact endLoading_queueLaw _ hs

/-- Settles O55: units change the ports by talk, and the port commands keep queues and holdings in form. -/
theorem queueLawIsKept : Obligations.QueueLawIsKept := fun _ _ hs h =>
  step_induct (P := QueueLaw) (fun _ _ hs => hs) (fun o _ _ hs => o.run_queueLaw hs) hs h

end Sys2Proof.Machine

/-! PROOFS. The law of the turnout (O60): a gate is open for a RUNNING order alone. -/

namespace Sys2Proof.Machine

open Sys2Proof.Safety

/-! ## The law gate by gate -/

/-- A RUNNING record of a table stands on a turnout. -/
def ServedIn (table : List OrderRec) (t : Turnout) : Prop := ∃ o ∈ table, o.turnout = t ∧ isRunningRec o = true

/-- The law for one gate, where `served` says that an order runs on its turnout. -/
def GateOk (g : GateRec) (served : Prop) : Prop :=
  (g.commanded ≠ 0 → served) ∧ (g.state = .closed ∨ (∃ c, g.state = .fault c) → g.commanded = 0)

theorem turnoutLaw_iff {s : State} :
    TurnoutLaw s ↔ (∀ t, GateOk (getAt s.gates t) (ServedIn s.orders.table t))
      ∧ (ownReach s = 0 → s.orders.table = []) :=
  ⟨fun ⟨hserved, hclosed, hreach⟩ => ⟨fun t => ⟨hserved t, hclosed t⟩, hreach⟩,
    fun ⟨hgates, hreach⟩ => ⟨fun t => (hgates t).1, fun t => (hgates t).2, hreach⟩⟩

/-- The laws of the order table and of the turnout, which the units keep together. -/
def Lawful (s : State) : Prop := OrderLaw s ∧ TurnoutLaw s

theorem Lawful.gateOk {s : State} (hs : Lawful s) (t : Turnout) :
    GateOk (getAt s.gates t) (ServedIn s.orders.table t) :=
  (turnoutLaw_iff.1 hs.2).1 t

theorem Lawful.assigned {s : State} (hs : Lawful s) {o : OrderRec} (ho : o ∈ s.orders.table) : ownReach s ≠ 0 := fun h =>
  absurd ((turnoutLaw_iff.1 hs.2).2 h ▸ ho) List.not_mem_nil

theorem GateOk.mono {g : GateRec} {p q : Prop} (h : GateOk g p) (hpq : p → q) : GateOk g q :=
  ⟨fun hg => hpq (h.1 hg), h.2⟩

theorem gateOk_zero {g : GateRec} {p : Prop} (h : g.commanded = 0) : GateOk g p := ⟨fun hg => absurd h hg, fun _ => h⟩

/-- What does not change gates, records or the own reach number keeps the laws. -/
theorem lawful_of_same {s t : State} (hgates : t.gates = s.gates) (htable : t.orders.table = s.orders.table)
    (hreach : ownReach t = ownReach s) (hs : Lawful s) : Lawful t := by
  unfold Lawful OrderLaw TurnoutLaw
  rw [hgates, htable, hreach]
  exact hs

theorem lawful_of_keeps {ps : List Part} {s t : State} (h : Keeps ps s t) (hgates : Part.gates ∉ ps)
    (horders : Part.orders ∉ ps) (htables : Part.tables ∉ ps) (hs : Lawful s) : Lawful t :=
  lawful_of_same (h.keeps .gates hgates) (congrArg OrderUnit.table (h.keeps .orders horders))
    (congrArg (fun x : Tables => x.reach.number) (h.keeps .tables htables)) hs

theorem lawful_of_within {ps : List Part} {s t : State} (h : Within ps s t) (hgates : Part.gates ∉ ps)
    (horders : Part.orders ∉ ps) (htables : Part.tables ∉ ps) (hs : Lawful s) : Lawful t :=
  lawful_of_keeps h.toKeeps hgates horders htables hs

theorem raiseDue_lawful {s : State} (hs : Lawful s) : Lawful (raiseDue s) :=
  lawful_of_same ((raiseDue_within s).keeps .gates (by decide)) (raiseDue_table s)
    (congrArg (fun x : Tables => x.reach.number) ((raiseDue_within s).keeps .tables (by decide))) hs

theorem lawful_of_due {ps : List Part} {s t : State} (h : WithinDue ps s t) (hgates : Part.gates ∉ ps)
    (horders : Part.orders ∉ ps) (htables : Part.tables ∉ ps) (hs : Lawful s) : Lawful t := by
  obtain ⟨x, hx, rfl | rfl⟩ := h
  · exact lawful_of_within hx hgates horders htables hs
  · exact raiseDue_lawful (lawful_of_within hx hgates horders htables hs)

theorem lawful_of_empty {s : State} (hgates : s.gates = .replicate 16 {}) (htable : s.orders.table = []) : Lawful s := by
  refine ⟨⟨?_, ?_, ?_⟩, turnoutLaw_iff.2 ⟨fun t => ?_, fun _ => htable⟩⟩
  · rw [htable]
    exact Nat.zero_le _
  · rw [htable]
    exact List.Pairwise.nil
  · rw [htable]
    exact fun _ ho => absurd ho List.not_mem_nil
  · rw [hgates, getAt_replicate]
    exact gateOk_zero rfl

/-! ## Changes of one gate -/

theorem putGate_lawful {t : Turnout} {g : GateRec} {s u : State} (hg : GateOk g (ServedIn s.orders.table t))
    (hgates : u.gates = putAt s.gates t g) (hkeeps : u.orders.table = s.orders.table) (hreach : ownReach u = ownReach s)
    (hs : Lawful s) : Lawful u := by
  have hswap : Lawful { s with gates := putAt s.gates t g } := by
    refine ⟨hs.1, turnoutLaw_iff.2 ⟨fun x => ?_, (turnoutLaw_iff.1 hs.2).2⟩⟩
    rw [getAt_putAt]
    split
    next h =>
      rw [h]
      exact hg
    next => exact hs.gateOk x
  exact lawful_of_same (s := { s with gates := putAt s.gates t g }) hgates hkeeps hreach hswap

theorem mapGate_lawful {t : Turnout} {f : GateRec → GateRec} {s : State}
    (hf : GateOk (f (getAt s.gates t)) (ServedIn s.orders.table t)) (hs : Lawful s) : Lawful (mapGate t f s) :=
  putGate_lawful hf rfl rfl rfl hs

theorem commandedGate_ok {n : Nat} {timed : Bool} {t : Turnout} {s : State} {p : Prop} (hn : n ≠ 0 → p ∧ timed = true) :
    GateOk (commandedGate n timed t s) p := by
  cases timed with
  | true => exact ⟨fun h => (hn h).1, fun h => h.elim (fun h => nomatch h) fun ⟨_, h⟩ => nomatch h⟩
  | false =>
    have hzero : n = 0 := by
      by_contra h
      exact Bool.false_ne_true (hn h).2
    exact gateOk_zero hzero

/-- A GATE SET to 0, or a timed one to the opening of a RUNNING order, keeps the laws. -/
theorem gateSet_lawful {t : Turnout} {n : Nat} {timed : Bool} {s : State} (m : Bool)
    (hn : n ≠ 0 → ServedIn s.orders.table t ∧ timed = true) (hs : Lawful s) : Lawful (gateSet t n m timed s) := by
  by_cases h0 : ownReach s = 0
  · rw [gateSet_unassigned h0]
    exact hs
  · rw [gateSet_assigned h0]
    exact putGate_lawful (commandedGate_ok hn) rfl rfl rfl hs

theorem gateSet_zero_lawful (t : Turnout) (m timed : Bool) {s : State} (hs : Lawful s) :
    Lawful (gateSet t 0 m timed s) :=
  gateSet_lawful m (fun h => absurd rfl h) hs

theorem gateSet_zero_commanded {t : Turnout} (m timed : Bool) {s : State} (h0 : ownReach s ≠ 0) :
    (getAt (gateSet t 0 m timed s).gates t).commanded = 0 := by
  rw [gateSet_assigned h0]
  show (getAt (putAt s.gates t (commandedGate 0 timed t s)) t).commanded = 0
  rw [getAt_putAt_self]
  cases timed <;> rfl

/-! ## Changes of the table -/

/-- Records that leave or change, as long as every gate that is open keeps a RUNNING one. -/
theorem table_lawful {s t : State} (hgates : t.gates = s.gates) (hreach : ownReach t = ownReach s)
    (horders : OrderLaw t)
    (hserved : ∀ u, (getAt s.gates u).commanded ≠ 0 → ServedIn s.orders.table u → ServedIn t.orders.table u)
    (hempty : s.orders.table = [] → t.orders.table = []) (hs : Lawful s) : Lawful t := by
  refine ⟨horders, turnoutLaw_iff.2 ⟨fun u => ?_, fun h => hempty ((turnoutLaw_iff.1 hs.2).2 (hreach ▸ h))⟩⟩
  rw [hgates]
  exact ⟨fun h => hserved u h ((hs.gateOk u).1 h), (hs.gateOk u).2⟩

/-- A change of records in their slots that lets none stop running keeps the laws. -/
theorem map_lawful {s t : State} {f : OrderRec → OrderRec} (hgates : t.gates = s.gates) (hreach : ownReach t = ownReach s)
    (htable : t.orders.table = s.orders.table.map f) (hslot : ∀ o, slotKey (f o) = slotKey o)
    (hrun : ∀ o ∈ s.orders.table, isRunningRec o = true → isRunningRec (f o) = true) (hs : Lawful s) : Lawful t := by
  refine table_lawful hgates hreach ((thins_of_map htable hslot).orderLaw hs.1) ?_ (fun h => by rw [htable, h]; rfl) hs
  rintro u - ⟨o, ho, hturnout, hrunning⟩
  refine ⟨f o, htable ▸ List.mem_map_of_mem ho, ?_, hrun o ho hrunning⟩
  exact (congrArg (fun k => k.2.1) (hslot o)).trans hturnout

/-- A record that is taken out while its gate is not open, or that does not run, leaves the laws standing. -/
theorem dropOrder_lawful {o : OrderRec} {s : State} (ho : o ∈ s.orders.table)
    (hclosed : isRunningRec o = true → (getAt s.gates o.turnout).commanded = 0) (hs : Lawful s) :
    Lawful { s with orders := dropOrder o.tag s.orders } := by
  refine table_lawful (s := s) rfl rfl ((dropOrder_thins o.tag s).orderLaw hs.1) ?_ (fun h => ?_) hs
  · rintro u hopen ⟨x, hx, hturnout, hrunning⟩
    refine ⟨x, List.mem_filter.2 ⟨hx, ?_⟩, hturnout, hrunning⟩
    rw [bne_iff_ne]
    intro htag
    obtain rfl := eq_of_tag_eq hs.1.2.1 hx ho htag
    exact hopen (hturnout ▸ hclosed hrunning)
  · rw [h] at ho
    exact absurd ho List.not_mem_nil

/-! ## Order ends -/

theorem requestClose_lawful (t : Turnout) (a : Nat) (c : OrderClass) {s : State} (hs : Lawful s) :
    Lawful (requestClose t a c s) := by
  unfold requestClose
  split
  · exact hs
  · exact hs
  · have hclosed := gateSet_zero_lawful t (isFrost c) true hs
    exact mapGate_lawful (hclosed.gateOk t) hclosed

/-- After the request to close, the gate of an assigned part is commanded shut. -/
theorem requestClose_commanded (t : Turnout) (a : Nat) (c : OrderClass) {s : State} (h0 : ownReach s ≠ 0)
    (hs : Lawful s) : (getAt (requestClose t a c s).gates t).commanded = 0 := by
  unfold requestClose
  split
  next cause h => exact (hs.gateOk t).2 (.inr ⟨cause, h⟩)
  next h => exact (hs.gateOk t).2 (.inl h)
  next =>
    exact (congrArg GateRec.commanded (getAt_putAt_self _ _ _)).trans (gateSet_zero_commanded _ _ h0)

theorem endOrder_lawful (c : EndCause) {o : OrderRec} {s : State} (ho : o ∈ s.orders.table) (hs : Lawful s) :
    Lawful (endOrder c o s) := by
  have hmem : o ∈ (closeForEnd o s).orders.table := by
    rw [closeForEnd_orders]
    exact ho
  have hclosing : Lawful (closeForEnd o s) ∧ (isRunningRec o = true →
      (getAt (closeForEnd o s).gates o.turnout).commanded = 0) := by
    unfold closeForEnd
    split
    next => exact ⟨requestClose_lawful _ _ _ hs, fun _ => requestClose_commanded _ _ _ (hs.assigned ho) hs⟩
    next h => exact ⟨hs, fun hrunning => absurd hrunning h⟩
  have hdropped := dropOrder_lawful hmem hclosing.2 hclosing.1
  have hended : Lawful (sendEnded o c { closeForEnd o s with orders := dropOrder o.tag (closeForEnd o s).orders }) :=
    lawful_of_within (sendEnded_within _ _ _) (by decide) (by decide) (by decide) hdropped
  unfold endOrder
  dsimp only
  split
  · exact hended
  · exact lawful_of_within (sendRelease_within _ _ _) (by decide) (by decide) (by decide) hended

theorem endTag_lawful (c : EndCause) (tag : Nat) {s : State} (hs : Lawful s) : Lawful (endTag c s tag) := by
  unfold endTag
  split
  next o h => exact endOrder_lawful c (findTag_some h).1 hs
  next => exact hs

theorem foldl_lawful {f : State → Nat → State} (hf : ∀ tag s, Lawful s → Lawful (f s tag)) (tags : List Nat) {s : State}
    (hs : Lawful s) : Lawful (tags.foldl f s) := by
  induction tags generalizing s with
  | nil => exact hs
  | cons tag tags ih => exact ih (hf tag s hs)

theorem endTags_lawful (c : EndCause) (tags : List Nat) {s : State} (hs : Lawful s) : Lawful (endTags c tags s) :=
  foldl_lawful (fun tag _ h => endTag_lawful c tag h) tags hs

theorem runningOn_some {t : Turnout} {table : List OrderRec} {o : OrderRec} (h : runningOn t table = some o) :
    o ∈ table ∧ o.turnout = t ∧ isRunningRec o = true := by
  unfold runningOn at h
  have hfound := List.find?_some h
  rw [Bool.and_eq_true, beq_iff_eq] at hfound
  exact ⟨List.mem_of_find?_eq_some h, hfound⟩

theorem endRunning_lawful (c : EndCause) (t : Turnout) {s : State} (hs : Lawful s) : Lawful (endRunning c t s) := by
  unfold endRunning
  split
  next o h => exact endOrder_lawful c (runningOn_some h).1 hs
  next => exact hs

theorem shed_lawful (n : Nat) {s : State} (hs : Lawful s) : Lawful (shed n s) := by
  have hwalk : Lawful ((shedOrder s.orders.table).foldl (shedTag n) s) := by
    refine foldl_lawful (fun tag x hx => ?_) _ hs
    unfold shedTag
    split
    next => exact hx
    next o h =>
      split
      · exact endOrder_lawful _ (findTag_some h).1 hx
      · exact hx
  unfold shed
  dsimp only
  split
  · exact lawful_of_within (raise_within _ _) (by decide) (by decide) (by decide) hwalk
  · exact hwalk

theorem bump82_lawful (f : OrderRec) {s : State} (hs : Lawful s) : Lawful (bump82 f s) := by
  refine foldl_lawful (fun tag x hx => ?_) _ hs
  unfold bumpTag
  split
  next => exact hx
  next o h =>
    split
    · exact endOrder_lawful _ (findTag_some h).1 hx
    · exact hx

theorem recomputeDraw_lawful {s : State} (hs : Lawful s) : Lawful (recomputeDraw s) := by
  unfold recomputeDraw
  dsimp only
  split
  · exact shed_lawful _ (lawful_of_same (s := s) rfl rfl rfl hs)
  · exact lawful_of_same (s := s) rfl rfl rfl hs

/-! ## The order unit's events -/

theorem findProvisional_some {tag : Nat} {s : State} {o : OrderRec} (h : findProvisional tag s = some o) :
    o ∈ s.orders.table ∧ o.tag = tag ∧ isProvisional o = true := by
  obtain ⟨hfound, hprovisional⟩ := Option.filter_eq_some_iff.1 h
  exact ⟨(findTag_some hfound).1, (findTag_some hfound).2, hprovisional⟩

theorem not_running_of_provisional {o : OrderRec} (h : isProvisional o = true) : isRunningRec o ≠ true := by
  unfold isProvisional at h
  unfold isRunningRec
  split at h
  next hstate => rw [hstate]; exact Bool.false_ne_true
  next => exact absurd h Bool.false_ne_true

/-- A state given to the record of a tag, which did not run, or which runs in its new state. -/
theorem setOrderState_lawful {o : OrderRec} {st : OrderState} {s t : State} (ho : o ∈ s.orders.table)
    (hgates : t.gates = s.gates) (hreach : ownReach t = ownReach s)
    (htable : t.orders.table = (setOrderState o.tag st s.orders).table)
    (hst : isRunningRec o = true → isRunningRec { o with state := st } = true) (hs : Lawful s) : Lawful t := by
  refine map_lawful (f := fun x => if x.tag == o.tag then { x with state := st } else x) hgates hreach htable
    (fun x => by split <;> rfl) (fun x hx hrunning => ?_) hs
  split
  next htag =>
    obtain rfl := eq_of_tag_eq hs.1.2.1 hx ho (beq_iff_eq.1 htag)
    exact hst hrunning
  next => exact hrunning

theorem isRunningRec_withSequence (q : Nat) (o : OrderRec) : isRunningRec (withSequence q o) = isRunningRec o := by
  cases hstate : o.state <;> simp [withSequence, isRunningRec, hstate]

theorem readySequence_lawful {s : State} (hs : Lawful s) : Lawful { s with orders := readySequence s.orders } := by
  unfold readySequence
  split
  · refine map_lawful (s := s) (f := fun o => match sequenceOf o with
      | none => o
      | some _ => withSequence ((tagsBySequence s.orders.table).idxOf o.tag + 1) o) rfl rfl rfl (fun o => ?_)
      (fun o _ hrunning => ?_) hs
    · split
      · rfl
      · exact slotKey_withSequence _ _
    · split
      · exact hrunning
      · exact (isRunningRec_withSequence _ _).trans hrunning
  · exact hs

theorem confirmOrder_lawful {o : OrderRec} {s : State} (ho : o ∈ s.orders.table) (hp : isProvisional o = true)
    (hs : Lawful s) : Lawful (confirmOrder o s) := by
  have hready := readySequence_lawful hs
  -- Renumbering leaves a PROVISIONAL record as it is.
  have hmem : o ∈ (readySequence s.orders).table := by
    have hnone : sequenceOf o = none := by
      unfold isProvisional at hp
      unfold sequenceOf
      split at hp
      next hstate => rw [hstate]
      next => exact absurd hp Bool.false_ne_true
    unfold readySequence
    split
    · refine List.mem_map.2 ⟨o, ho, ?_⟩
      rw [hnone]
    · exact ho
  have hconfirmed : Lawful { s with orders := confirmRecord o.tag s.orders } :=
    setOrderState_lawful (s := { s with orders := readySequence s.orders }) hmem rfl rfl rfl
      (fun h => absurd h (not_running_of_provisional hp)) hready
  have hsent : ∀ x : State, Lawful x → Lawful (raiseDue (sendConfirmed o x)) := fun x hx =>
    raiseDue_lawful (lawful_of_within (sendNotice_within _ _ _ _) (by decide) (by decide) (by decide) hx)
  unfold confirmOrder
  dsimp only
  split
  · exact hsent _ (bump82_lawful o hconfirmed)
  · exact hsent _ hconfirmed

theorem takeConfirm_lawful (b : List Byte) {s : State} (hs : Lawful s) : Lawful (takeConfirm b s) := by
  have hunmatched : Lawful (countUnmatched s) :=
    lawful_of_within (countUnmatched_within s) (by decide) (by decide) (by decide) hs
  unfold takeConfirm
  split
  · split
    next o h =>
      obtain ⟨ho, -, hp⟩ := findProvisional_some h
      exact confirmOrder_lawful ho hp hs
    next => exact hunmatched
  · exact hunmatched

theorem takeRefuse_lawful (b : List Byte) {s : State} (hs : Lawful s) : Lawful (takeRefuse b s) := by
  have hunmatched : Lawful (countUnmatched s) :=
    lawful_of_within (countUnmatched_within s) (by decide) (by decide) (by decide) hs
  unfold takeRefuse
  split
  · split
    next o h =>
      obtain ⟨ho, -, hp⟩ := findProvisional_some h
      exact lawful_of_within (sendRefused_within _ _ _ _ _ _ _) (by decide) (by decide) (by decide)
        (dropOrder_lawful ho (fun h => absurd h (not_running_of_provisional hp)) hs)
    next => exact hunmatched
  · exact hunmatched

theorem takeCancel_lawful (t : Turnout) (b : List Byte) {s : State} (hs : Lawful s) : Lawful (takeCancel t b s) := by
  have hrefused : ∀ n tag x reason m, Lawful (sendRefused t n tag x reason m s) := fun _ _ _ _ _ =>
    lawful_of_within (sendRefused_within _ _ _ _ _ _ s) (by decide) (by decide) (by decide) hs
  unfold takeCancel
  split
  · split
    next o h =>
      have hmem := (mem_sortBy _ _ _).1 (List.mem_of_mem_head? (Option.mem_def.2 h))
      exact endOrder_lawful _ (List.mem_filter.1 hmem).1 hs
    next => exact hrefused _ _ _ _ _
  · exact hrefused _ _ _ _ _

theorem takeOrder_lawful (t : Turnout) (b : List Byte) {s : State} (h0 : ownReach s ≠ 0) (hs : Lawful s) :
    Lawful (takeOrder t b s) := by
  have hrefused : ∀ n tag x reason m, Lawful (sendRefused t n tag x reason m s) := fun _ _ _ _ _ =>
    lawful_of_within (sendRefused_within _ _ _ _ _ _ s) (by decide) (by decide) (by decide) hs
  unfold takeOrder
  split
  · exact hrefused _ _ _ _ _
  next q _ =>
    split
    · exact hrefused _ _ _ _ _
    next h =>
      have hlaw := admittedTable_law h hs.1
      have hwithin := admitOrder_within t q s
      have htable : (admitOrder t q s).orders.table = insertOrder (admittedRecord t q s) s.orders.table := by
        unfold admitOrder
        rw [raiseDue_table]
        rfl
      have hreach : ownReach (admitOrder t q s) = ownReach s :=
        congrArg (fun x : Tables => x.reach.number) (hwithin.keeps .tables (by decide))
      have hgates : (admitOrder t q s).gates = s.gates := by
        unfold admitOrder
        exact (raiseDue_within _).keeps .gates (by decide)
      refine ⟨hlaw, turnoutLaw_iff.2 ⟨fun u => ?_, fun hzero => absurd (hreach ▸ hzero) h0⟩⟩
      rw [hgates, htable]
      refine (hs.gateOk u).mono ?_
      rintro ⟨o, ho, hrun⟩
      exact ⟨o, (mem_insertBy _ _ _ _).2 (.inr ho), hrun⟩

/-- A record whose start checks pass runs before its gate is opened. -/
theorem runOrder_lawful {o : OrderRec} {q : Nat} {s : State} (ho : o ∈ s.orders.table) (hs : Lawful s) :
    Lawful (runOrder o q s) := by
  have hrunning : Lawful { s with orders := setOrderState o.tag (.running q 0 (startCharge o.account s)) s.orders } :=
    setOrderState_lawful (s := s) ho rfl rfl rfl (fun _ => rfl) hs
  have hstarted : Lawful (enterStart o.account
      { s with orders := setOrderState o.tag (.running q 0 (startCharge o.account s)) s.orders }) :=
    lawful_of_within (enterStart_within _ _) (by decide) (by decide) (by decide) hrunning
  have hserved : ServedIn (enterStart o.account
      { s with orders := setOrderState o.tag (.running q 0 (startCharge o.account s)) s.orders }).orders.table o.turnout := by
    rw [show (enterStart o.account _).orders = _ from (enterStart_within _ _).keeps .orders (by decide)]
    refine ⟨{ o with state := .running q 0 (startCharge o.account s) }, ?_, rfl, rfl⟩
    refine List.mem_map.2 ⟨o, ho, ?_⟩
    rw [if_pos (beq_self_eq_true _)]
  have hopened : ∀ n, Lawful (requestOpening o.turnout n o.cls (enterStart o.account
      { s with orders := setOrderState o.tag (.running q 0 (startCharge o.account s)) s.orders })) := by
    intro n
    unfold requestOpening
    split
    · exact hstarted
    · exact gateSet_lawful _ (fun _ => ⟨hserved, rfl⟩) hstarted
  exact raiseDue_lawful
    (lawful_of_within (sendNotice_within _ _ _ _) (by decide) (by decide) (by decide) (hopened _))

theorem startOrder_lawful {o : OrderRec} {s : State} (ho : o ∈ s.orders.table) (hs : Lawful s) :
    Lawful (startOrder o s) := by
  unfold startOrder
  split
  · split
    · exact endOrder_lawful _ ho hs
    · exact runOrder_lawful ho hs
  · exact hs

theorem lapse_lawful {o : OrderRec} {s : State} (ho : o ∈ s.orders.table) (hp : isProvisional o = true)
    (hs : Lawful s) : Lawful (lapse o s) := by
  have hdropped := dropOrder_lawful ho (fun h => absurd h (not_running_of_provisional hp)) hs
  have hlapsed := lawful_of_within (sendNotice_within o.turnout (be 1 o.terminal ++ be 1 o.tag ++ be 1 3) (isFrost o.cls) _)
    (by decide) (by decide) (by decide) hdropped
  exact lawful_of_within (raise_within _ _) (by decide) (by decide) (by decide)
    (lawful_of_within (sendRelease_within _ _ _) (by decide) (by decide) (by decide) hlapsed)

/-- A raised event concerns a record of the table that books an event of its kind. -/
theorem raisedRecord_some {k : OrderEventKind} {s : State} {o : OrderRec} (h : raisedRecord k s = some o) :
    o ∈ s.orders.table ∧ (bookedOrder o).1.kind = k := by
  unfold raisedRecord at h
  split at h
  · simp at h
  next e _ _ =>
    split at h
    next hk =>
      obtain ⟨hfound, hbooked⟩ := Option.filter_eq_some_iff.1 h
      exact ⟨(findTag_some hfound).1, (congrArg OrderEvent.kind (beq_iff_eq.1 hbooked)).trans hk⟩
    next => simp at h

theorem provisional_of_booked {o : OrderRec} (h : (bookedOrder o).1.kind = .holdDeadline) : isProvisional o = true := by
  unfold bookedOrder at h
  unfold isProvisional
  split at h
  next hstate => rw [hstate]
  next => nomatch h
  next => nomatch h

theorem takeOrderEvent_lawful {k : OrderEventKind} {f : OrderRec → State → State}
    (hf : ∀ o t, o ∈ t.orders.table → (bookedOrder o).1.kind = k → Lawful t → Lawful (f o t)) {s : State}
    (hs : Lawful s) : Lawful (takeOrderEvent k f s) := by
  unfold takeOrderEvent
  split
  next o h =>
    obtain ⟨ho, hk⟩ := raisedRecord_some h
    exact hf o _ ho hk (lawful_of_same (s := s) rfl rfl rfl hs)
  next => exact hs

/-! ## The gate unit's events -/

theorem enterFault_lawful (t : Turnout) (c : FaultCause) {s : State} (hs : Lawful s) : Lawful (enterFault t c s) := by
  have hset : Lawful (gateSet t 0 (runningFrost t (mapGate t (faultedGate c) s)) false (mapGate t (faultedGate c) s)) := by
    by_cases h0 : ownReach s = 0
    · -- An unassigned part has no order, and so no open gate.
      rw [gateSet_unassigned (by exact h0)]
      have hnone : (getAt s.gates t).commanded = 0 := by
        by_contra hopen
        obtain ⟨o, ho, -⟩ := (hs.gateOk t).1 hopen
        exact hs.assigned ho h0
      exact mapGate_lawful (gateOk_zero hnone) hs
    · rw [gateSet_assigned (by exact h0)]
      exact putGate_lawful (s := s) (t := t) (g := commandedGate 0 false t (mapGate t (faultedGate c) s)) (gateOk_zero rfl)
        (putAt_putAt _ _ _ _) rfl rfl hs
  exact lawful_of_within (raise_within _ _) (by decide) (by decide) (by decide) hset

theorem lockoutOf_lawful (t : Turnout) (r : GateReport) {s : State} (hs : Lawful s) : Lawful (lockoutOf t r s) := by
  unfold lockoutOf
  split
  · exact hs
  · exact endRunning_lawful _ _ hs

theorem reportInFault_lawful {t : Turnout} {r : GateReport} {s : State}
    (hfault : ∃ c, (getAt s.gates t).state = .fault c) (hs : Lawful s) : Lawful (reportInFault t r s) := by
  have hzero := (hs.gateOk t).2 (.inr hfault)
  unfold reportInFault
  refine lockoutOf_lawful _ _ ?_
  split
  · exact mapGate_lawful (gateOk_zero hzero) hs
  · exact hs

/-- A gate settles in CLOSED when it is commanded 0 alone. -/
theorem settles_state {g : GateRec} {r : GateReport} {st : GateState} (h : reportOutcome g r = .settles st) :
    st = .opened ∨ (st = .closed ∧ g.commanded = 0) := by
  unfold reportOutcome at h
  split_ifs at h with _ _ _ hzero
  · exact .inr ⟨(ReportOutcome.settles.inj h).symm, hzero⟩
  · exact .inl (ReportOutcome.settles.inj h).symm

theorem reportOutOfFault_lawful (t : Turnout) (r : GateReport) {s : State} (hs : Lawful s) :
    Lawful (reportOutOfFault t r s) := by
  unfold reportOutOfFault
  split
  · exact endRunning_lawful _ _ (lockoutOf_lawful _ _ (enterFault_lawful _ _ hs))
  next st h =>
    refine lockoutOf_lawful _ _ (mapGate_lawful ?_ hs)
    obtain rfl | ⟨rfl, hzero⟩ := settles_state h
    · exact ⟨(hs.gateOk t).1, fun h => h.elim (fun h => nomatch h) fun ⟨_, h⟩ => nomatch h⟩
    · exact gateOk_zero hzero
  · refine lockoutOf_lawful _ _ (mapGate_lawful ?_ hs)
    exact ⟨(hs.gateOk t).1, fun h => h.elim (fun h => nomatch h) fun ⟨_, h⟩ => nomatch h⟩
  · exact lockoutOf_lawful _ _ hs

theorem takeReport_lawful (t : Turnout) (b : List Byte) {s : State} (hs : Lawful s) : Lawful (takeReport t b s) := by
  unfold takeReport
  split
  · exact lawful_of_within (countRefusedSource_within _ s) (by decide) (by decide) (by decide) hs
  next r _ =>
    have hreported : Lawful (mapGate t (reportedGate r) s) := mapGate_lawful (hs.gateOk t) hs
    unfold wellFormedReport
    dsimp only
    split
    next c hfault =>
      refine reportInFault_lawful ⟨c, ?_⟩ hreported
      show (getAt (putAt s.gates t (reportedGate r (getAt s.gates t))) t).state = .fault c
      rw [getAt_putAt_self]
      exact hfault
    next => exact reportOutOfFault_lawful _ _ hreported

theorem timerFault_lawful (t : Turnout) (c : FaultCause) {s : State} (hs : Lawful s) : Lawful (timerFault t c s) :=
  endRunning_lawful _ _ (enterFault_lawful _ _ hs)

theorem trimCall_served {t : Turnout} {n : Nat} {s : State} {o : OrderRec} {opening : Nat}
    (h : trimCall t n s = some (o, opening)) : ServedIn s.orders.table t := by
  unfold trimCall at h
  dsimp only at h
  split at h
  · simp at h
  next x hrunning => exact ⟨x, runningOn_some hrunning⟩

theorem takeReading_lawful (t : Turnout) (n : Nat) {s : State} (hs : Lawful s) : Lawful (takeReading t n s) := by
  unfold takeReading
  split
  next h => exact gateSet_lawful _ (fun _ => ⟨trimCall_served h, rfl⟩) hs
  next => exact hs

theorem checkCommand_lawful (t : Turnout) {s : State} (hs : Lawful s) : Lawful (checkCommand t s) := by
  unfold checkCommand
  split
  · split
    · exact gateSet_zero_lawful _ _ _ hs
    · exact gateSet_zero_lawful _ _ _ hs
    · exact hs
  · exact hs

theorem placeWaiting_lawful {s : State} (hs : Lawful s) : Lawful (placeWaiting s) := by
  unfold placeWaiting
  split
  · exact hs
  · exact gateSet_zero_lawful _ _ _ (lawful_of_same (s := s) rfl rfl rfl hs)

theorem placeWhileRoom_lawful (k : Nat) {s : State} (hs : Lawful s) : Lawful (placeWhileRoom k s) := by
  induction k generalizing s with
  | zero => exact hs
  | succ k ih =>
    unfold placeWhileRoom
    split
    · exact ih (placeWaiting_lawful hs)
    · exact hs

theorem startGates_lawful {s : State} (hs : Lawful s) : Lawful (startGates s) := by
  unfold startGates
  split
  · exact hs
  · exact placeWhileRoom_lawful _ (lawful_of_same (s := s) rfl rfl rfl hs)

/-! ## Readings -/

theorem isRunningRec_creditRec (v a : Nat) (o : OrderRec) : isRunningRec (creditRec v a o) = isRunningRec o := by
  cases hstate : o.state <;> simp [creditRec, isRunningRec, hstate]

theorem creditOrder_lawful (tag v a : Nat) {s : State} (hs : Lawful s) : Lawful (creditOrder tag v a s) := by
  refine map_lawful (s := s) (f := fun o => if o.tag == tag then creditRec v a o else o) rfl rfl rfl (fun o => ?_)
    (fun o _ hrunning => ?_) hs
  · split
    · exact slotKey_creditRec _ _ _
    · rfl
  · split
    · exact (isRunningRec_creditRec _ _ _).trans hrunning
    · exact hrunning

theorem creditInterval_lawful (t : Turnout) (v : Nat) {s : State} (hs : Lawful s) : Lawful (creditInterval t v s).1 := by
  have hmetered : ∀ m, Lawful { s with metering := m } := fun m => lawful_of_same (s := s) rfl rfl rfl hs
  unfold creditInterval
  split
  · unfold creditToOrder
    dsimp only
    split
    · exact creditOrder_lawful _ _ _ (hmetered _)
    · exact creditOrder_lawful _ _ _ (hmetered _)
  · exact hmetered _
  · unfold creditUnordered
    dsimp only
    split
    · exact hmetered _
    · exact lawful_of_within (raise_within _ _) (by decide) (by decide) (by decide) (hmetered _)

theorem endsAndTrim_lawful (t : Turnout) (n : Nat) (tags : List Nat) {s : State} (hs : Lawful s) :
    Lawful (endsAndTrim t n tags s) := by
  unfold endsAndTrim
  dsimp only
  split
  · exact takeReading_lawful _ _ (endTags_lawful _ _ hs)
  · exact endTags_lawful _ _ (takeReading_lawful _ _ (endTags_lawful _ _ (lawful_of_same (s := s) rfl rfl rfl hs)))

theorem handOn_lawful (x : Station) (v : Option Nat) (n : Nat) {s : State} (hs : Lawful s) : Lawful (handOn x v n s) := by
  unfold handOn
  split
  · exact endsAndTrim_lawful _ _ _ (lawful_of_within (raiseAllotment_within _ _) (by decide) (by decide) (by decide)
      (creditInterval_lawful _ _ hs))
  · exact takeReading_lawful _ _ hs
  · split
    · exact lawful_of_same (s := s) rfl rfl rfl hs
    · exact lawful_of_same (s := s) rfl rfl rfl hs
  · exact hs

theorem acceptReading_lawful (x : Station) (n : Nat) {s : State} (hs : Lawful s) : Lawful (acceptReading x n s) := by
  have hrated : Within scanParts s (if isOffRating x n s then raise .offRating s else s) :=
    within_ite ((raise_within _ s).mono (by decide)) (Within.refl _ _)
  have hscanned := (hrated.trans ((mapStation_within x (acceptedStation s.clock.run (acceptedRate x n s)) _).mono
    (by decide))).trans (completePoll_within _)
  exact handOn_lawful _ _ _ (lawful_of_within hscanned (by decide) (by decide) (by decide) hs)

theorem takeHeadReading_lawful (x : Station) (b : List Byte) {s : State} (hs : Lawful s) :
    Lawful (takeHeadReading x b s) := by
  have hrefused : Lawful (countRefusedSource .d s) :=
    lawful_of_within (countRefusedSource_within _ s) (by decide) (by decide) (by decide) hs
  unfold takeHeadReading
  split
  · split
    · split
      · exact acceptReading_lawful _ _ hs
      · exact lawful_of_within (missPoll_within _ s) (by decide) (by decide) (by decide) hs
    · exact hrefused
  · exact hrefused

/-! ## Table writes, the clock and the supply -/

/-- An accepted REACH write changes the own reach number of a part without orders alone (R35). -/
theorem reachConflict_number {r : ReachTable} {s : State} (h : reachConflict r s = none) :
    r.number = ownReach s ∨ s.orders.table = [] := by
  unfold reachConflict at h
  dsimp only at h
  split_ifs at h with hused
  by_contra hnot
  rw [not_or] at hnot
  refine hused ⟨.inl hnot.1, ?_⟩
  cases htable : s.orders.table with
  | nil => exact absurd htable hnot.2
  | cons o os => rfl

theorem acceptReach_lawful {r : ReachTable} {s : State} (h : reachConflict r s = none) (hs : Lawful s) :
    Lawful (acceptReach r s) := by
  have hstored : Lawful { s with tables := { s.tables with reach := r } } := by
    obtain hnumber | hempty := reachConflict_number h
    · exact lawful_of_same (s := s) rfl rfl hnumber hs
    · exact ⟨hs.1, turnoutLaw_iff.2 ⟨hs.gateOk, fun _ => hempty⟩⟩
  have hdraw := recomputeDraw_lawful hstored
  unfold acceptReach takeWarnChoice
  split
  · exact hdraw
  · exact lawful_of_within (compareSupply_within _) (by decide) (by decide) (by decide) hdraw

theorem allotmentAtWrite_lawful (i : Fin 64) {s : State} (hs : Lawful s) : Lawful (allotmentAtWrite i s) := by
  unfold allotmentAtWrite
  dsimp only
  split
  · exact endTags_lawful _ _ (lawful_of_within (raise_within _ s) (by decide) (by decide) (by decide) hs)
  · exact hs

theorem keepAccount_lawful (i : Fin 64) (old new : AccountEntry) {s : State} (hs : Lawful s) :
    Lawful (keepAccount i old new s) := by
  unfold keepAccount
  dsimp only
  split
  · exact allotmentAtWrite_lawful _ (endTags_lawful _ _ hs)
  · exact endTags_lawful _ _ hs

theorem Written.lawful {s t : State} (h : Written s t) (hs : Lawful s) : Lawful t := by
  cases h with
  | reach r h => exact acceptReach_lawful h hs
  | turnout t e =>
    have hstored : Lawful (turnoutStored t e s) := lawful_of_same (s := s) rfl rfl rfl hs
    rw [acceptTurnout_eq]
    refine checkCommand_lawful _ ?_
    split
    · exact endTags_lawful _ _ hstored
    · exact hstored
  | account i a =>
    have hstored : Lawful (accountStored i a s) := lawful_of_same (s := s) rfl rfl rfl hs
    rw [acceptAccount_eq]
    split
    · exact keepAccount_lawful _ _ _ hstored
    · exact hstored
  | timing t =>
    have hretimed : Keeps [.comms] { s with tables := { s.tables with timing := t } } (acceptTiming t s) :=
      (retimePort_keeps .u _).trans (retimePort_keeps .d _)
    exact lawful_of_keeps hretimed (by decide) (by decide) (by decide) (lawful_of_same (s := s) rfl rfl rfl hs)
  | quiet _ h hreach =>
    exact lawful_of_same (h.keeps .gates (by decide)) (congrArg OrderUnit.table (h.keeps .orders (by decide)))
      (congrArg ReachTable.number hreach) hs

theorem actTableWrite_lawful (b : List Byte) {s : State} (hs : Lawful s) : Lawful (actTableWrite b s) := by
  obtain ⟨t, ht, hreply⟩ := actTableWrite_written b s
  refine lawful_of_within hreply (by decide) (by decide) (by decide) ?_
  obtain rfl | hwritten := ht
  · exact hs
  · exact hwritten.lawful hs

theorem takeCurtail_lawful (b : List Byte) {s : State} (hs : Lawful s) : Lawful (takeCurtail b s) := by
  unfold takeCurtail
  split
  · split
    · exact hs
    · exact recomputeDraw_lawful (lawful_of_same (s := s) rfl rfl rfl hs)
  · exact lawful_of_within (countRefusedSource_within _ s) (by decide) (by decide) (by decide) hs

theorem isRunningRec_rebaseOrder (len : Nat) (o : OrderRec) : isRunningRec (rebaseOrder len o) = isRunningRec o := by
  cases hstate : o.state <;> simp [rebaseOrder, rebaseState, isRunningRec, hstate]

theorem wrap_lawful {s : State} (hs : Lawful s) : Lawful (wrap s) := by
  refine table_lawful (s := s) (t := wrap s) rfl rfl (wrap_orderLaw hs.1) ?_ (fun h => ?_) hs
  · rintro u - ⟨o, ho, hturnout, hrunning⟩
    exact ⟨rebaseOrder _ o, List.mem_map_of_mem ho, hturnout, (isRunningRec_rebaseOrder _ o).trans hrunning⟩
  · show s.orders.table.map _ = []
    rw [h]
    rfl

theorem tick_lawful {s : State} (hs : Lawful s) : Lawful (tick s) := by
  have hcounted : Lawful (countRun s) := lawful_of_same (s := s) rfl rfl rfl hs
  unfold tick
  split
  · exact hcounted
  · refine raiseDue_lawful ?_
    unfold advance
    split
    · exact wrap_lawful hcounted
    · exact lawful_of_same (s := countRun s) rfl rfl rfl hcounted

theorem transmitStart_lawful (p : Port) (quiet : Nat) {s : State} (hs : Lawful s) : Lawful (transmitStart p quiet s) := by
  have hquiet : Lawful (quietReaches p quiet s) :=
    lawful_of_keeps (quietReaches_keeps _ _ s) (by decide) (by decide) (by decide) hs
  unfold transmitStart
  split
  · unfold tryTransmit
    dsimp only
    split
    · exact hquiet
    · split
      · have hstarted : ∀ f, Lawful (mapUnit p f (quietReaches p quiet s)) := fun f =>
          lawful_of_keeps (mapUnit_keeps _ _ _) (by decide) (by decide) (by decide) hquiet
        cases p with
        | u => exact hstarted _
        | d => exact placeWaiting_lawful (hstarted _)
      · exact hquiet
  · exact hs

theorem endLoading_lawful (l : Loading) {s : State} (hs : Lawful s) : Lawful (endLoading l s) := by
  have hmgmt : Lawful (endLoadingMgmt l s) := by
    have hcleared : ∀ m c x, Lawful { s with mgmt := m, comms := c, supply := x, loading := none } := fun _ _ _ =>
      lawful_of_same (s := s) rfl rfl rfl hs
    have hcompared : ∀ m c x, Lawful (fallCheck { s with mgmt := m, comms := c, supply := x, loading := none }) :=
      fun m c x => lawful_of_within (fallCheck_within _) (by decide) (by decide) (by decide) (hcleared m c x)
    unfold endLoadingMgmt
    dsimp only
    refine lawful_of_within (raise_within _ _) (by decide) (by decide) (by decide) ?_
    split
    · exact lawful_of_within (raise_within _ _) (by decide) (by decide) (by decide) (hcompared _ _ _)
    · exact hcompared _ _ _
  have hstarted := lawful_of_within (startScan_within _) (by decide) (by decide) (by decide) (startGates_lawful hmgmt)
  exact lawful_of_same (s := startScan (startGates (endLoadingMgmt l s))) rfl rfl rfl hstarted

/-! ## The law -/

theorem Op.run_lawful (o : Op) {s : State} (ho : Op.Reaches o s) (hs : Lawful s) : Lawful (o.run s) := by
  have hdue : ∀ {ps t}, WithinDue ps s t → Part.gates ∉ ps → Part.orders ∉ ps → Part.tables ∉ ps → Lawful t :=
    fun h hg hr ht => lawful_of_due h hg hr ht hs
  cases o with
  | order t b => exact takeOrder_lawful t b ho hs
  | cancel t b => exact takeCancel_lawful t b hs
  | confirm b => exact takeConfirm_lawful b hs
  | refuse b => exact takeRefuse_lawful b hs
  | holdDeadline => exact takeOrderEvent_lawful (fun _ _ h hk => lapse_lawful h (provisional_of_booked hk)) hs
  | startReached => exact takeOrderEvent_lawful (fun _ _ h _ => startOrder_lawful h) hs
  | endReached => exact takeOrderEvent_lawful (fun _ _ h _ => endOrder_lawful _ h) hs
  | report t b => exact takeReport_lawful t b hs
  | reading x b => exact takeHeadReading_lawful x b hs
  | curtail b => exact takeCurtail_lawful b hs
  | tableWrite b => exact actTableWrite_lawful b hs
  | tick => exact tick_lawful hs
  | time b => exact hdue (takeTime_due b s) (by decide) (by decide) (by decide)
  | frostCall b => exact hdue (takeFrostCall_due b s) (by decide) (by decide) (by decide)
  | frostEnd =>
    dsimp only [Op.run]
    unfold Machine.frostEnd
    split
    · exact lawful_of_same (s := s) rfl rfl rfl hs
    · exact hs
  | passDemand f => exact hdue (passDemand_due f s) (by decide) (by decide) (by decide)
  | passConfirm f => exact hdue (passConfirm_due f s) (by decide) (by decide) (by decide)
  | passRefuse f => exact hdue (passRefuse_due f s) (by decide) (by decide) (by decide)
  | passRelease f => exact hdue (passRelease_due f s) (by decide) (by decide) (by decide)
  | carriageEvent k => exact hdue (takeCarriageEvent_due k s) (by decide) (by decide) (by decide)
  | transmitStart p quiet => exact transmitStart_lawful p quiet hs
  | replyTimeout t =>
    dsimp only [Op.run]
    unfold Machine.replyTimeout
    dsimp only
    split
    · exact timerFault_lawful _ _ hs
    · exact hs
  | travelTimeout t =>
    dsimp only [Op.run]
    unfold Machine.travelTimeout
    dsimp only
    split
    · exact timerFault_lawful _ _ hs
    · exact hs
  | operationEnd passed =>
    obtain ⟨x, hx, h | h | h⟩ := operationEnd_cases passed s
    · exact lawful_of_within (t := Machine.operationEnd passed s) (h ▸ hx) (by decide) (by decide) (by decide) hs
    · exact (congrArg Lawful h).mpr (lawful_of_empty rfl rfl)
    · exact (congrArg Lawful h).mpr (lawful_of_empty rfl rfl)
  | supplyMoves level =>
    obtain h | h := supplyMoves_cases level s
    · exact lawful_of_keeps h (by decide) (by decide) (by decide) hs
    · exact (congrArg Lawful h).mpr (lawful_of_empty rfl rfl)
  | finishLoading =>
    dsimp only [Op.run]
    unfold Machine.finishLoading
    split
    · exact hs
    · exact endLoading_lawful _ hs
  | forward | misrouted | refusedSource | takeFrom | leaveHolding | endGap | captureSaturation | inactiveEdge | activeEdge
    | transmitEnd | talkerClash | resend | busyPending | tableRead | storeCommit | statusRead | eventClear | billRead
    | orderRead | command | periodClose | intervalExpiry | pollTimeout =>
    exact lawful_of_keeps (Op.run_keeps _ s) (by dsimp only [Op.parts]; decide) (by dsimp only [Op.parts]; decide)
      (by dsimp only [Op.parts]; decide) hs

/-- Settles O60: with the laws of the order table, an open gate loses its RUNNING order only as it is commanded shut. -/
theorem turnoutLawIsKept : Obligations.TurnoutLawIsKept := fun _ _ horders hs h =>
  (step_induct (P := Lawful) (fun _ _ hs => lawful_of_same rfl rfl rfl hs) (fun o _ ho hs => o.run_lawful ho hs)
    ⟨horders, hs⟩ h).2

end Sys2Proof.Machine

/-! PROOFS. Steps, the classifier, transmissions, the check, and a frame from port to port (O1, O3, O4, O7, O8, O9). -/

namespace Sys2Proof.Machine

open Sys2Proof.Safety

/-! ## Steps and frame commands (O1, O3) -/

/-- Settles O1: by the equation of a step on each form of the queue. -/
theorem stepTakesTheFrontCommand : Obligations.StepTakesTheFrontCommand :=
  ⟨fun _ _ _ => rfl, fun s h => by unfold step; rw [h]⟩

/-- Settles O3: each frame command runs the router's work, which reaches a running part. -/
theorem frameCommandsAreRouted : Obligations.FrameCommandsAreRouted := by
  intro m b src dst s hrun
  have hwork : ∀ p f, Host.Outcome.next (φ := Fault) (ρ := Refusal) (whileRunning (work p f) s) = .next (work p f s) :=
    fun p f => congrArg _ (whileRunning_runs hrun)
  refine ⟨fun t => ⟨hwork .d _, hwork .d _, hwork .d _⟩, fun x => hwork .d _, fun broadcast => ?_, hwork .u _, hwork .u _,
    hwork .u _, hwork .u _, hwork .d _, hwork .d _⟩
  cases broadcast with
  | false => exact ⟨hwork .u _, hwork .u _, hwork .u _⟩
  | true => exact ⟨hwork .u _, hwork .u _, hwork .u _⟩

/-! ## The classifier (O4) -/

theorem inWindow_iff {w : Window} {n : Nat} : inWindow w n = true ↔ w.lo ≤ n ∧ n ≤ w.hi := by
  simp [inWindow]

theorem inWindow_eq_false_iff {w : Window} {n : Nat} : inWindow w n = false ↔ n < w.lo ∨ w.hi < n := by
  rw [← Bool.not_eq_true, inWindow_iff]
  omega

/-- A width of one window lies outside a window apart from it. -/
theorem inWindow_apart {v w : Window} (h : windowsApart v w = true) {n : Nat} (hn : inWindow w n = true) :
    inWindow v n = false := by
  rw [windowsApart, Bool.or_eq_true, decide_eq_true_eq, decide_eq_true_eq] at h
  rw [inWindow_iff] at hn
  rw [inWindow_eq_false_iff]
  omega

section

variable {t : LineTiming} {w : Nat}

theorem classify_lead (hw : inWindow t.lead w = true) : classify t w = .lead := by
  simp [classify, hw]

theorem classify_mark (ht : timingApart t = true) (hw : inWindow t.mark w = true) : classify t w = .mark := by
  simp only [timingApart, Bool.and_eq_true] at ht
  obtain ⟨⟨⟨⟨⟨hlead, -⟩, -⟩, -⟩, -⟩, -⟩ := ht
  simp [classify, inWindow_apart hlead hw, hw]

theorem classify_one (ht : timingApart t = true) (hw : inWindow t.one w = true) : classify t w = .one := by
  simp only [timingApart, Bool.and_eq_true] at ht
  obtain ⟨⟨⟨⟨⟨-, hlead⟩, -⟩, hmark⟩, -⟩, -⟩ := ht
  simp [classify, inWindow_apart hlead hw, inWindow_apart hmark hw, hw]

theorem classify_zero (ht : timingApart t = true) (hw : inWindow t.zero w = true) : classify t w = .zero := by
  simp only [timingApart, Bool.and_eq_true] at ht
  obtain ⟨⟨⟨⟨⟨-, -⟩, hlead⟩, -⟩, hmark⟩, hone⟩ := ht
  simp [classify, inWindow_apart hlead hw, inWindow_apart hmark hw, inWindow_apart hone hw, hw]

theorem classify_unclassified (hw : ∀ v ∈ [t.lead, t.mark, t.one, t.zero], w < v.lo ∨ v.hi < w) :
    classify t w = .unclassified := by
  simp only [← inWindow_eq_false_iff, List.forall_mem_cons] at hw
  obtain ⟨hlead, hmark, hone, hzero, -⟩ := hw
  simp [classify, hlead, hmark, hone, hzero]

end

/-- A pulse that saturates is given to the receiver as unclassified at that moment (R2, R3). -/
theorem exec_captureSaturation {p : Port} {s : State} (h : PulseEnds p s) :
    exec (.captureSaturation p) s = .next (giveSymbol p .unclassified (mapUnit p (fun x => { x with counter := 65535 }) s)) := by
  obtain ⟨hrun, hactive, hflight, hcounter⟩ := h
  have hpulse : ((unitAt p s).active && !transmitting (unitAt p s)
      && decide ((unitAt p s).counter < counterTop)) = true := by
    simp [hactive, transmitting, hflight, counterTop, hcounter]
  show Host.Outcome.next (whileRunning (captureSaturation p) s) = _
  rw [whileRunning_runs hrun, captureSaturation, if_pos hpulse]
  rfl

theorem giveSymbol_error {p : Port} {y : Symbol} {e : ReceiverError} {s : State}
    (h : receive (unitAt p s).receiver y = (.discard, some e)) :
    giveSymbol p y s = countError p e (mapUnit p (fun x => { x with receiver := .discard }) s) := by
  unfold giveSymbol
  rw [h]

/-- Settles O4: by the windows, which lie apart, and by the receiver's state at a saturation. -/
theorem pulsesAreClassified : Obligations.PulsesAreClassified := by
  refine ⟨fun t w ht => ⟨fun h => classify_lead (inWindow_iff.2 h), fun h => classify_mark ht (inWindow_iff.2 h),
    fun h => classify_one ht (inWindow_iff.2 h), fun h => classify_zero ht (inWindow_iff.2 h), classify_unclassified⟩,
    fun p s hp hr => ?_, fun p w s hrun hactive hflight hcounter => ?_⟩
  · have hreceive : receive (unitAt p (mapUnit p (fun x => { x with counter := 65535 }) s)).receiver .unclassified
        = (.discard, some .symbol) := by
      rw [unitAt_mapUnit_self]
      obtain hidle | ⟨bytes, bits, mark, hframe⟩ := hr
      · simp only [hidle, receive]
      · simp only [hframe, receive]
    rw [exec_captureSaturation hp, giveSymbol_error hreceive, mapUnit_mapUnit]
    rfl
  · show Host.Outcome.next (whileRunning (inactiveEdge p w) s) = _
    rw [whileRunning_runs hrun]
    simp [inactiveEdge, transmitting, hflight, hactive, hcounter, counterTop]

/-! ## Transmission (O7) -/

section

variable {p : Port} {s : State}

theorem quietReaches_counts {quiet : Nat}
    (h : (unitAt p s).gapRaised = true ∨ max (unitAt p s).counter (min quiet 65535) < s.tables.timing.endGap) :
    quietReaches p quiet s = mapUnit p (fun x => { x with counter := max (unitAt p s).counter (min quiet 65535) }) s := by
  have hgap : (!(unitAt p s).gapRaised
      && decide (s.tables.timing.endGap ≤ max (unitAt p s).counter (min quiet counterTop))) = false := by
    rw [Bool.and_eq_false_iff, decide_eq_false_iff_not, Nat.not_le, Bool.not_eq_false']
    exact h
  unfold quietReaches
  dsimp only
  rw [if_neg (by rw [hgap]; exact Bool.false_ne_true)]
  rfl

theorem isQuiet_of {x : PortUnit} (hactive : x.active = false) (hflight : x.inFlight = none) : isQuiet x = true := by
  simp [isQuiet, transmitting, hactive, hflight]

theorem exec_transmitStart {quiet : Nat} (hrun : Runs s) (hactive : (unitAt p s).active = false)
    (hflight : (unitAt p s).inFlight = none) :
    exec (.transmitStart p quiet) s = .next (tryTransmit p (quietReaches p quiet s)) := by
  show Host.Outcome.next (whileRunning (transmitStart p quiet) s) = _
  rw [whileRunning_runs hrun, transmitStart, if_pos (isQuiet_of hactive hflight)]

theorem tryTransmit_empty (h : (unitAt p s).queue = []) : tryTransmit p s = s := by
  simp [tryTransmit, h]

theorem tryTransmit_head {head : Frame} {rest : List Frame} (h : (unitAt p s).queue = head :: rest) :
    tryTransmit p s = if requiredQuiet s (unitAt p s) head ≤ (unitAt p s).counter then
        afterStart p (mapUnit p (startedUnit s.tables.timing head rest) s)
      else s := by
  simp [tryTransmit, h]

theorem tryTransmit_waits {head : Frame} {rest : List Frame} (h : (unitAt p s).queue = head :: rest)
    (hq : (unitAt p s).counter < requiredQuiet s (unitAt p s) head) : tryTransmit p s = s := by
  rw [tryTransmit_head h, if_neg (Nat.not_le.2 hq)]

theorem tryTransmit_begins {head : Frame} {rest : List Frame} (h : (unitAt p s).queue = head :: rest)
    (hq : requiredQuiet s (unitAt p s) head ≤ (unitAt p s).counter) :
    tryTransmit p s = afterStart p (mapUnit p (startedUnit s.tables.timing head rest) s) := by
  rw [tryTransmit_head h, if_pos hq]

end

theorem mapUnit_eq_self {p : Port} {f : PortUnit → PortUnit} {s : State} (h : f (unitAt p s) = unitAt p s) :
    mapUnit p f s = s := by
  unfold mapUnit
  rw [show f (portOf p s.comms) = portOf p s.comms from h, setPort_portOf]

/-- The line state of a port unit is as it was: quiet time, edge, gap and transmission. -/
structure SameLine (x y : PortUnit) : Prop where
  counter : y.counter = x.counter
  active : y.active = x.active
  gapRaised : y.gapRaised = x.gapRaised
  inFlight : y.inFlight = x.inFlight

theorem sameLine_of_talk {s t : State} (p : Port) (h : Talk s.comms t.comms) : SameLine (unitAt p s) (unitAt p t) := by
  obtain ⟨-, -, hcounter, hactive, hgap, hflight, -⟩ := h.port p
  exact ⟨hcounter, hactive, hgap, hflight⟩

theorem offerFrame_sameLine (p : Port) (bytes : List Byte) (mark : Bool) (s : State) :
    SameLine (unitAt p s) (unitAt p (offerFrame p bytes mark s)) := by
  have hcounted : ∀ f, SameLine (unitAt p s) (unitAt p (raise .lineFault (count p f s))) := fun f =>
    sameLine_of_talk p ((count_within p f s).trans (raise_within _ _)).talks
  unfold offerFrame
  split
  · exact hcounted _
  · split
    · rw [unitAt_mapUnit_self]
      exact ⟨rfl, rfl, rfl, rfl⟩
    · exact hcounted _

theorem countError_sameLine (p : Port) (e : ReceiverError) (s : State) :
    SameLine (unitAt p s) (unitAt p (countError p e s)) := by
  cases e with
  | symbol => exact sameLine_of_talk p ((count_within p _ s).trans (raise_within _ _)).talks
  | framing => exact sameLine_of_talk p ((count_within p _ s).trans (raise_within _ _)).talks

/-- The end-gap event marks the interval and leaves the rest of the line state alone. -/
theorem endGapEvent_sameLine (p : Port) (s : State) :
    SameLine { unitAt p s with gapRaised := true } (unitAt p (endGapEvent p s)) := by
  have hidle : unitAt p (mapUnit p (fun x => { x with gapRaised := true, receiver := .idle }) s)
      = { unitAt p s with gapRaised := true, receiver := .idle } := unitAt_mapUnit_self ..
  have hsame : ∀ t, SameLine (unitAt p (mapUnit p (fun x => { x with gapRaised := true, receiver := .idle }) s))
      (unitAt p t) → SameLine { unitAt p s with gapRaised := true } (unitAt p t) := by
    intro t ht
    rw [hidle] at ht
    exact ⟨ht.counter, ht.active, ht.gapRaised, ht.inFlight⟩
  unfold endGapEvent
  dsimp only
  split
  · split
    · exact hsame _ (offerFrame_sameLine _ _ _ _)
    · exact hsame _ (countError_sameLine _ _ _)
  · exact hsame _ ⟨rfl, rfl, rfl, rfl⟩

/-- An end gap that finds the quiet time already counted raises its event alone. -/
theorem exec_endGap_stands {p : Port} {s : State} (hrun : Runs s) (hactive : (unitAt p s).active = false)
    (hflight : (unitAt p s).inFlight = none) (hraised : (unitAt p s).gapRaised = false)
    (hgap : s.tables.timing.endGap ≤ (unitAt p s).counter) : exec (.endGap p) s = .next (endGapEvent p s) := by
  have hstill : max (unitAt p s).counter (min s.tables.timing.endGap counterTop) = (unitAt p s).counter :=
    max_eq_left ((min_le_left _ _).trans hgap)
  show Host.Outcome.next (whileRunning (endGap p) s) = _
  rw [whileRunning_runs hrun, endGap, if_pos (isQuiet_of hactive hflight), quietReaches]
  rw [hstill, hraised, if_pos (by simp [hgap]), mapUnit_eq_self rfl]

/-- Where the quiet time reaches the end gap of an interval, the end gap is raised before anything is transmitted. -/
theorem transmitStart_after_gap {p : Port} {quiet : Nat} {s y : State} (hrun : Runs s)
    (hactive : (unitAt p s).active = false) (hflight : (unitAt p s).inFlight = none)
    (hraised : (unitAt p s).gapRaised = false)
    (hgap : s.tables.timing.endGap ≤ max (unitAt p s).counter (min quiet 65535))
    (hy : exec (.endGap p)
      (mapUnit p (fun x => { x with counter := max (unitAt p s).counter (min quiet 65535) }) s) = .next y) :
    exec (.transmitStart p quiet) s = exec (.transmitStart p quiet) y := by
  generalize hn : max (unitAt p s).counter (min quiet 65535) = n at hgap hy
  generalize hc : mapUnit p (fun x => { x with counter := n }) s = c at hy
  have hunit : unitAt p c = { unitAt p s with counter := n } := by
    rw [← hc]
    exact unitAt_mapUnit_self ..
  have hcounted : quietReaches p quiet s = endGapEvent p c := by
    unfold quietReaches
    dsimp only
    rw [show max (unitAt p s).counter (min quiet counterTop) = n from hn, hraised, if_pos (by simp [hgap]), hc]
  have hkeptc : Keeps [.comms] s c := hc ▸ mapUnit_keeps _ _ _
  have hruns : ∀ {x}, Keeps [.comms] s x → Runs x := fun h =>
    (isRunning_of_eq (congrArg Supply.status (h.keeps .supply (by decide))) (h.keeps .loading (by decide))).trans hrun
  have hevent : y = endGapEvent p c := by
    have htables : c.tables = s.tables := hkeptc.keeps .tables (by decide)
    have hstands := exec_endGap_stands (p := p) (hruns hkeptc) (by rw [hunit]; exact hactive) (by rw [hunit]; exact hflight)
      (by rw [hunit]; exact hraised) (by rw [hunit, htables]; exact hgap)
    exact (Host.Outcome.next.inj (hstands.symm.trans hy)).symm
  have hline := endGapEvent_sameLine p c
  rw [← hevent, hunit] at hline
  have hruny : Runs y := hruns (hevent ▸ hkeptc.trans (endGapEvent_keeps p c))
  have hstands : quietReaches p quiet y = y := by
    rw [quietReaches_counts (.inl hline.gapRaised)]
    refine mapUnit_eq_self ?_
    have hmax : max (unitAt p y).counter (min quiet 65535) = (unitAt p y).counter := by
      rw [hline.counter, ← hn]
      exact max_eq_left (le_max_right _ _)
    rw [hmax]
  rw [exec_transmitStart hrun hactive hflight, exec_transmitStart hruny (hline.active.trans hactive)
    (hline.inFlight.trans hflight), hcounted, hstands, hevent]

/-- Before the end gap nothing is transmitted. -/
theorem tryTransmit_before_gap {p : Port} {s : State} (h : (unitAt p s).counter < s.tables.timing.endGap) :
    tryTransmit p s = s := by
  cases hqueue : (unitAt p s).queue with
  | nil => exact tryTransmit_empty hqueue
  | cons head rest =>
    refine tryTransmit_waits hqueue ?_
    unfold requiredQuiet
    omega

/-- Settles O7: the edges and ends by their definitions, a start by the quiet time, the gap and the queue's head. -/
theorem transmissionsBeginEndAndClash : Obligations.TransmissionsBeginEndAndClash := by
  refine ⟨fun p s hrun => ⟨fun hflight => ?_, fun hflight => ⟨?_, ?_⟩⟩, fun p quiet s hrun hactive hflight => ?_⟩
  · show Host.Outcome.next (whileRunning (activeEdge p) s) = _
    rw [whileRunning_runs hrun, activeEdge, if_neg (by simp [transmitting, hflight])]
  · show Host.Outcome.next (whileRunning (transmitEnd p) s) = _
    rw [whileRunning_runs hrun, transmitEnd, if_pos (show transmitting (unitAt p s) = true from hflight)]
    rfl
  · show Host.Outcome.next (whileRunning (talkerClash p) s) = _
    rw [whileRunning_runs hrun, talkerClash, if_pos (show transmitting (unitAt p s) = true from hflight)]
    rfl
  · dsimp only
    have hstart := exec_transmitStart (p := p) (quiet := quiet) hrun hactive hflight
    have hcounts := fun h => quietReaches_counts (p := p) (s := s) (quiet := quiet) h
    refine ⟨fun hraised hshort => ?_, fun hraised hgap y hy => transmitStart_after_gap hrun hactive hflight hraised hgap hy,
      fun hraised hempty => ?_, fun head rest hraised hqueue => ⟨fun hshort => ?_, fun henough => ?_⟩⟩
    · rw [hstart, hcounts (.inr hshort), tryTransmit_before_gap]
      rw [unitAt_mapUnit_self]
      exact hshort
    · rw [hstart, hcounts (.inl hraised), tryTransmit_empty]
      rw [unitAt_mapUnit_self]
      exact hempty
    · rw [hstart, hcounts (.inl hraised), tryTransmit_waits (head := head) (rest := rest)]
      · rw [unitAt_mapUnit_self]
        exact hqueue
      · rw [unitAt_mapUnit_self]
        exact hshort
    · rw [hstart, hcounts (.inl hraised), tryTransmit_begins (head := head) (rest := rest), mapUnit_mapUnit]
      · cases p with
        | u => rfl
        | d => rfl
      · rw [unitAt_mapUnit_self]
        exact hqueue
      · rw [unitAt_mapUnit_self]
        exact henough

/-! ## The check (O8) -/

/-- A bit equal to the register's first leaves by a shift alone. -/
theorem checkBit_own {r : BitVec 16} {k : Nat} (hk : k < 16) :
    checkBit (r <<< k) (r.getLsbD (15 - k)) = r <<< (k + 1) := by
  have hmsb : (r <<< k).msb = r.getLsbD (15 - k) := by
    rw [BitVec.msb_eq_getLsbD_last, BitVec.getLsbD_shiftLeft]
    simp [show ¬ 15 < k by omega]
  unfold checkBit
  rw [hmsb, if_pos (beq_self_eq_true _), BitVec.shiftLeft_add]

/-- The first byte of a register is its upper eight bits. -/
theorem byteBits_upper (r : BitVec 16) :
    byteBits (BitVec.ofNat 8 (r.toNat / 256 ^ 1)) = [r.getLsbD 15, r.getLsbD 14, r.getLsbD 13, r.getLsbD 12,
      r.getLsbD 11, r.getLsbD 10, r.getLsbD 9, r.getLsbD 8] := by
  have hbit : ∀ i < 8, (BitVec.ofNat 8 (r.toNat / 256 ^ 1)).getLsbD i = r.getLsbD (i + 8) := by
    intro i hi
    rw [BitVec.getLsbD_ofNat, show 256 ^ 1 = 2 ^ 8 by rfl, Nat.testBit_div_two_pow, ← BitVec.testBit_toNat]
    simp [hi]
  unfold byteBits
  rw [hbit 7 (by decide), hbit 6 (by decide), hbit 5 (by decide), hbit 4 (by decide), hbit 3 (by decide),
    hbit 2 (by decide), hbit 1 (by decide), hbit 0 (by decide)]

/-- The second byte of a register is its lower eight bits. -/
theorem byteBits_lower (r : BitVec 16) :
    byteBits (BitVec.ofNat 8 (r.toNat / 256 ^ 0)) = [r.getLsbD 7, r.getLsbD 6, r.getLsbD 5, r.getLsbD 4,
      r.getLsbD 3, r.getLsbD 2, r.getLsbD 1, r.getLsbD 0] := by
  have hbit : ∀ i < 8, (BitVec.ofNat 8 (r.toNat / 256 ^ 0)).getLsbD i = r.getLsbD i := by
    intro i hi
    rw [BitVec.getLsbD_ofNat, pow_zero, Nat.div_one, ← BitVec.testBit_toNat]
    simp [hi]
  unfold byteBits
  rw [hbit 7 (by decide), hbit 6 (by decide), hbit 5 (by decide), hbit 4 (by decide), hbit 3 (by decide),
    hbit 2 (by decide), hbit 1 (by decide), hbit 0 (by decide)]

/-- The bits of a register clear it. -/
theorem checkFrom_own (r : BitVec 16) : checkFrom r (be 2 r.toNat) = 0 := by
  have hbit : ∀ k, k < 16 → checkBit (r <<< k) (r.getLsbD (15 - k)) = r <<< (k + 1) := fun _ => checkBit_own
  have hfirst : checkBit r (r.getLsbD 15) = r <<< 1 := by simpa using hbit 0 (by decide)
  have hall : checkFrom r (be 2 r.toNat) = r <<< 16 := by
    simp only [checkFrom, checkByte, be, List.foldl_cons, List.foldl_nil, byteBits_upper, byteBits_lower]
    rw [hfirst, hbit 1 (by decide), hbit 2 (by decide), hbit 3 (by decide), hbit 4 (by decide), hbit 5 (by decide),
      hbit 6 (by decide), hbit 7 (by decide), hbit 8 (by decide), hbit 9 (by decide), hbit 10 (by decide),
      hbit 11 (by decide), hbit 12 (by decide), hbit 13 (by decide), hbit 14 (by decide), hbit 15 (by decide)]
  rw [hall]
  exact BitVec.shiftLeft_eq_zero (by decide)

/-- The check of the nine bytes 31h to 39h, with the register after each byte. -/
theorem crc16_nine_digits : crc16 [0x31, 0x32, 0x33, 0x34, 0x35, 0x36, 0x37, 0x38, 0x39] = 0x29B1 := by
  have h1 : checkByte 0xFFFF#16 0x31 = 0xC782#16 := by decide
  have h2 : checkByte 0xC782#16 0x32 = 0x3DBA#16 := by decide
  have h3 : checkByte 0x3DBA#16 0x33 = 0x5BCE#16 := by decide
  have h4 : checkByte 0x5BCE#16 0x34 = 0x5349#16 := by decide
  have h5 : checkByte 0x5349#16 0x35 = 0x4560#16 := by decide
  have h6 : checkByte 0x4560#16 0x36 = 0x2EF4#16 := by decide
  have h7 : checkByte 0x2EF4#16 0x37 = 0x7718#16 := by decide
  have h8 : checkByte 0x7718#16 0x38 = 0xA12B#16 := by decide
  have h9 : checkByte 0xA12B#16 0x39 = 0x29B1#16 := by decide
  simp only [crc16, checkFrom, List.foldl_cons, List.foldl_nil, h1, h2, h3, h4, h5, h6, h7, h8, h9]
  rfl

/-- Settles O8: the check's own bits clear the register; the acceptance of a frame's bytes is R11. -/
theorem checkAndAcceptance : Obligations.CheckAndAcceptance := by
  refine ⟨fun bs => ?_, crc16_nine_digits, fun dst src kind body mark h => acceptFrame_frameBytes mark h⟩
  have hsplit : crc16 (bs ++ be 2 (crc16 bs).toNat) = checkFrom (crc16 bs) (be 2 (crc16 bs).toNat) := List.foldl_append
  rw [hsplit, checkFrom_own]

/-! ## From port to port (O9) -/

theorem midpoint_inWindow {w : Window} (h : w.lo ≤ w.hi) : inWindow w (midpoint w) = true := by
  rw [inWindow_iff, midpoint]
  omega

/-- A width that is sent is classified as the symbol it was sent for. -/
theorem classify_midpoints {t : LineTiming} (hr : timingInRange t = true) (ha : timingApart t = true) :
    classify t (midpoint t.lead) = .lead ∧ classify t (midpoint t.mark) = .mark
      ∧ classify t (midpoint t.one) = .one ∧ classify t (midpoint t.zero) = .zero := by
  simp only [timingInRange, windowInRange, Bool.and_eq_true, decide_eq_true_eq] at hr
  obtain ⟨⟨⟨⟨⟨⟨⟨-, hlead⟩, ⟨-, hmark⟩⟩, ⟨-, hone⟩⟩, ⟨-, hzero⟩⟩, -⟩, -⟩, -⟩ := hr
  exact ⟨classify_lead (midpoint_inWindow hlead), classify_mark ha (midpoint_inWindow hmark),
    classify_one ha (midpoint_inWindow hone), classify_zero ha (midpoint_inWindow hzero)⟩

theorem byteOfBits_byteBits : ∀ b : Byte, byteOfBits (byteBits b) = b := by decide

/-- A receiver given the pulse of a width. -/
def hear (t : LineTiming) (r : Receiver) (width : Nat) : Receiver := (receive r (classify t width)).1

/-- The width sent for a data bit. -/
def bitWidth (x : Transmission) (b : Bool) : Nat := if b then x.oneWidth else x.zeroWidth

section

variable {t : LineTiming} (hr : timingInRange t = true) (ha : timingApart t = true) (f : Frame)

include hr ha

theorem hear_bit (bytes : List Byte) (bits : List Bool) (mark b : Bool) :
    hear t (.frame bytes bits mark) (bitWidth (beginTransmission t f) b) = (takeBit bytes bits mark b).1 := by
  obtain ⟨-, -, hone, hzero⟩ := classify_midpoints hr ha
  have hsymbol : classify t (bitWidth (beginTransmission t f) b) = if b then .one else .zero := by
    cases b with
    | true => exact hone
    | false => exact hzero
  unfold hear
  rw [hsymbol, receive_frame_bit]

/-- The eight pulses of a byte append that byte. -/
theorem hear_byte {bytes : List Byte} (mark : Bool) (b : Byte) (h : bytes.length < 44) :
    ((byteBits b).map (bitWidth (beginTransmission t f))).foldl (hear t) (.frame bytes [] mark)
      = .frame (bytes ++ [b]) [] mark := by
  have hpartial : ∀ bits c, bits.length < 7 →
      hear t (.frame bytes bits mark) (bitWidth (beginTransmission t f) c) = .frame bytes (bits ++ [c]) mark :=
    fun bits c hbits => by rw [hear_bit hr ha, takeBit_partial mark c hbits]
  have hlast : ∀ bits c, bits.length = 7 → hear t (.frame bytes bits mark) (bitWidth (beginTransmission t f) c)
      = .frame (bytes ++ [byteOfBits (bits ++ [c])]) [] mark :=
    fun bits c hbits => by rw [hear_bit hr ha, takeBit_eighth mark c hbits h]
  unfold byteBits
  simp only [List.map_cons, List.map_nil, List.foldl_cons, List.foldl_nil]
  rw [hpartial [] _ (by simp), hpartial _ _ (by simp), hpartial _ _ (by simp), hpartial _ _ (by simp),
    hpartial _ _ (by simp), hpartial _ _ (by simp), hpartial _ _ (by simp), hlast _ _ (by simp)]
  exact congrArg (fun x => Receiver.frame (bytes ++ [x]) [] mark) (byteOfBits_byteBits b)

/-- The pulses of up to 44 bytes append them all. -/
theorem hear_bytes (mark : Bool) (bs bytes : List Byte) (h : bytes.length + bs.length ≤ 44) :
    ((bs.flatMap byteBits).map (bitWidth (beginTransmission t f))).foldl (hear t) (.frame bytes [] mark)
      = .frame (bytes ++ bs) [] mark := by
  induction bs generalizing bytes with
  | nil => simp
  | cons b bs ih =>
    rw [List.length_cons] at h
    rw [List.flatMap_cons, List.map_append, List.foldl_append, hear_byte hr ha f mark b (by omega),
      ih (bytes ++ [b]) (by rw [List.length_append, List.length_singleton]; omega), List.append_assoc]
    rfl

/-- The LEAD opens a frame, and the MARK of a marked one follows it. -/
theorem hear_opening :
    (midpoint t.lead :: (if f.marked then [midpoint t.mark] else [])).foldl (hear t) .idle = .frame [] [] f.marked := by
  obtain ⟨hlead, hmark, -, -⟩ := classify_midpoints hr ha
  have hopened : hear t .idle (midpoint t.lead) = .frame [] [] false := by
    unfold hear
    rw [hlead]
    rfl
  rw [List.foldl_cons, hopened]
  cases f.marked with
  | false => rfl
  | true =>
    show hear t (.frame [] [] false) (midpoint t.mark) = _
    unfold hear
    rw [hmark, receive_frame_first_mark]

end

/-- Settles O9: the widths are classified as they were sent, and the receiver takes the opening and then byte by byte. -/
theorem transmittedFrameIsReceived : Obligations.TransmittedFrameIsReceived := by
  intro t f hr ha hbody
  have hlength : (frameBytes f).length ≤ 44 := by
    rw [frameBytes_length]
    omega
  show (pulses (beginTransmission t f)).foldl (hear t) .idle = _
  have hpulses : pulses (beginTransmission t f)
      = (midpoint t.lead :: (if f.marked then [midpoint t.mark] else []))
        ++ ((frameBytes f).flatMap byteBits).map (bitWidth (beginTransmission t f)) := rfl
  rw [hpulses, List.foldl_append, hear_opening hr ha f, hear_bytes hr ha f f.marked (frameBytes f) [] (by simpa using hlength)]
  rfl

end Sys2Proof.Machine

/-! PROOFS. Flags, arbitration and the routes from upstream (O11, O12, O13). -/

namespace Sys2Proof.Machine

open Sys2Proof.Safety

/-! ## Flags (O11) -/

theorem raise_silent {k : Flag} {s : State} (hclear : flagSet s.comms.flags k = false)
    (henable : flagSet s.tables.enables k = false) :
    raise k s = { s with comms := { s.comms with flags := addFlag s.comms.flags k } } := by
  simp [raise, raiseIn, alertContext, hclear, henable]

theorem raise_alerts {k : Flag} {s : State} (hclear : flagSet s.comms.flags k = false)
    (henable : flagSet s.tables.enables k = true) :
    raise k s = place .u (alertFrame (alertContext s) (addFlag s.comms.flags k) k)
      { s with comms := { s.comms with flags := addFlag s.comms.flags k } } := by
  unfold raise raiseIn
  rw [if_neg (by rw [hclear]; exact Bool.false_ne_true)]
  dsimp only
  rw [if_pos (show flagSet (alertContext s).enables k = true from henable)]
  rfl

/-- Settles O11: a set flag stays; a clear one is set, with an ALERT when it is enabled. -/
theorem flagIsRaised : Obligations.FlagIsRaised :=
  fun _ _ => ⟨fun h => raise_set h, fun h he => raise_silent h he, fun h he => raise_alerts h he⟩

/-! ## Arbitration (O12) -/

theorem isEmpty_eq_false {l : List Frame} (h : l ≠ []) : l.isEmpty = false := List.isEmpty_eq_false_iff.2 h

theorem nextPort_of_other {p : Port} {s : State} (hp : (unitAt p s).holding ≠ [])
    (h : (unitAt (otherPort p) s).holding = [] ∨ s.lastTaken = some (otherPort p) ∨ (s.lastTaken = none ∧ p = .u)) :
    nextPort s = some p := by
  cases p with
  | u =>
    unfold nextPort
    rw [isEmpty_eq_false (show s.comms.u.holding ≠ [] from hp)]
    by_cases hd : s.comms.d.holding = []
    · rw [hd]
      rfl
    · rw [isEmpty_eq_false hd]
      have hlast : s.lastTaken ≠ some .u := by
        obtain hempty | hd' | hnone := h
        · exact absurd hempty hd
        · rw [hd']
          decide
        · rw [hnone.1]
          decide
      exact congrArg some (if_neg hlast)
  | d =>
    unfold nextPort
    rw [isEmpty_eq_false (show s.comms.d.holding ≠ [] from hp)]
    by_cases hu : s.comms.u.holding = []
    · rw [hu]
      rfl
    · rw [isEmpty_eq_false hu]
      have hlast : s.lastTaken = some .u := by
        obtain hempty | hu' | hnone := h
        · exact absurd hempty hu
        · exact hu'
        · exact absurd hnone.2 (by decide)
      exact congrArg some (if_pos hlast)

/-- Settles O12: by the port that the holdings and the last taken port name. -/
theorem routerTakesTheNextFrame : Obligations.RouterTakesTheNextFrame := by
  refine ⟨fun p f rest s hrun hholding h => ?_, fun s hu hd => ?_⟩
  · show Host.Outcome.next (whileRunning routeNext s) = _
    rw [whileRunning_runs hrun, routeNext, nextPort_of_other (by rw [hholding]; exact List.cons_ne_nil _ _) h]
    dsimp only
    rw [routeFrom, hholding]
  · have hidle : routeNext s = s := by
      rw [routeNext, nextPort, hu, hd]
      rfl
    show Host.Outcome.next (whileRunning routeNext s) = _
    unfold whileRunning
    rw [hidle, ite_self]

/-! ## Routes from upstream (O13) -/

section

variable {f : Frame} {s : State}

theorem work_up (h : Assigned s) (f : Frame) : work .u f s = routeUp f s := if_neg (assigned_ne_zero h)

theorem routeUp_broadcast (h : f.dst.reach = 255) : routeUp f s = forward .d f (deliverUp f s) := if_pos h

theorem routeUp_misrouted (h : f.dst.reach ≠ 255) (hd : 251 ≤ f.dst.reach ∨ 19 ≤ f.dst.station) :
    routeUp f s = countMisrouted .u s := by
  rw [routeUp, if_neg h, if_pos hd]

theorem routeUp_within (hd : f.dst.reach ≤ 250) (hs : f.dst.station < 19) :
    routeUp f s = if f.dst.reach < ownReach s then (if f.src.reach < ownReach s then s else countMisrouted .u s)
      else if f.dst.reach = ownReach s then (if f.dst.station = 0 then deliverUp f s else forward .d f s)
      else descend f s := by
  rw [routeUp, if_neg (by omega), if_neg (by omega)]

theorem descend_eq (f : Frame) (s : State) :
    descend f s = forward .d f
      (if f.dst.reach ≤ 249 ∧ f.kind = 0x52 then passConfirm f s
       else if f.dst.reach ≤ 249 ∧ f.kind = 0x53 then passRefuse f s else s) := by
  unfold descend
  split
  · rfl
  · split
    · rfl
    · rfl

theorem deliverUp_answer (hd : f.dst.reach = ownReach s) (hs : f.src.reach < ownReach s)
    (hk : f.kind = 0x52 ∨ f.kind = 0x53) :
    deliverUp f s = if f.kind = 0x52 then takeConfirm f.body s else takeRefuse f.body s := by
  have hanswer : (f.dst.reach == ownReach s && (f.kind == Kind.confirm || f.kind == Kind.refuse)) = true := by
    simpa [hd] using hk
  rw [deliverUp, if_pos hanswer, deliverAnswer, if_neg (Nat.not_le.2 hs)]

theorem deliverUp_office (hs : f.src = ⟨0, 0⟩) (hk : f.kind ≠ 0x52 ∧ f.kind ≠ 0x53) :
    deliverUp f s = deliverOffice (f.dst.reach == ownReach s) f s := by
  have hanswer : ¬ (f.dst.reach == ownReach s && (f.kind == Kind.confirm || f.kind == Kind.refuse)) = true := by
    simpa using fun _ => hk
  rw [deliverUp, if_neg hanswer, if_pos (show f.src = office from hs)]

theorem deliverUp_request (hs : f.src = ⟨0, 0⟩) (hd : f.dst.reach = ownReach s)
    (hk : f.kind ∈ [0x71, 0x72, 0x74, 0x75, 0x77, 0x78, 0x7A, 0x7C]) :
    deliverUp f s = takeRequest f.kind f.body s := by
  have hother : f.kind ≠ 0x52 ∧ f.kind ≠ 0x53 ∧ f.kind ≠ 0x61 ∧ f.kind ≠ 0x62 ∧ f.kind ≠ 0x63 := by
    refine ⟨?_, ?_, ?_, ?_, ?_⟩ <;> rintro h <;> simp [h] at hk
  obtain ⟨h52, h53, h61, h62, h63⟩ := hother
  have hown : ((f.dst.reach == ownReach s) && isRequest f.kind) = true := by
    simp [hd, isRequest_iff.2 hk]
  rw [deliverUp_office hs ⟨h52, h53⟩, deliverOffice, if_neg h61, if_neg h62, if_neg h63, if_pos hown]

/-- A consumed frame that is no answer, no call and no request for the part is dropped with one count (R18). -/
theorem deliverUp_refused (hanswer : ¬ ((f.dst.reach = ownReach s ∧ f.src.reach < ownReach s) ∧ f.kind ∈ [0x52, 0x53]))
    (hcall : ¬ (f.src = ⟨0, 0⟩ ∧ f.kind ∈ [0x61, 0x62, 0x63]))
    (hrequest : ¬ (f.src = ⟨0, 0⟩ ∧ f.dst.reach = ownReach s
      ∧ f.kind ∈ [0x71, 0x72, 0x74, 0x75, 0x77, 0x78, 0x7A, 0x7C])) :
    deliverUp f s = countRefusedSource .u s := by
  unfold deliverUp
  dsimp only
  split
  next h =>
    simp only [Bool.and_eq_true, Bool.or_eq_true, beq_iff_eq] at h
    have hreach : ownReach s ≤ f.src.reach := by
      by_contra hlt
      exact hanswer ⟨⟨h.1, Nat.lt_of_not_le hlt⟩, by simpa using h.2⟩
    rw [deliverAnswer, if_pos hreach]
  next =>
    split
    next hsrc =>
      have hkind : f.kind ≠ 0x61 ∧ f.kind ≠ 0x62 ∧ f.kind ≠ 0x63 := by
        simpa using fun h => hcall ⟨hsrc, h⟩
      obtain ⟨h61, h62, h63⟩ := hkind
      have hown : ¬ ((f.dst.reach == ownReach s) && isRequest f.kind) = true := by
        rw [Bool.and_eq_true, beq_iff_eq, isRequest_iff]
        exact fun h => hrequest ⟨hsrc, h⟩
      rw [deliverOffice, if_neg h61, if_neg h62, if_neg h63, if_neg hown]
    next => rfl

end

/-- Settles O13, by R15's cases of the destination and R18's takers. -/
theorem routesFromUpstream : Obligations.RoutesFromUpstream := by
  intro f s ha
  have hmax := ha.2
  rw [work_up ha]
  refine ⟨routeUp_broadcast, routeUp_misrouted, fun hd hst hsrc => ?_, fun hd hst hsrc => ?_, fun hd hst => ?_,
    fun hd h1 h18 => ?_, fun hd h250 hst => ?_, ?_⟩
  · rw [routeUp_within (by omega) hst, if_pos hd, if_pos hsrc]
  · rw [routeUp_within (by omega) hst, if_pos hd, if_neg (Nat.not_lt.2 hsrc)]
  · rw [routeUp_within (by omega) (by omega), if_neg (by omega), if_pos hd, if_pos hst]
  · rw [routeUp_within (by omega) (by omega), if_neg (by omega), if_pos hd, if_neg (by omega)]
  · rw [routeUp_within h250 hst, if_neg (by omega), if_neg (by omega), descend_eq]
  · refine ⟨fun h hk => ?_, fun h hk => ?_, fun h hk => ?_, fun h hk => ?_, fun h hk => ?_, fun h hd => deliverUp_request h hd,
      deliverUp_refused⟩
    · rw [deliverUp_answer h.1 h.2 (.inl hk), if_pos hk]
    · rw [deliverUp_answer h.1 h.2 (.inr hk), if_neg (by omega)]
    · rw [deliverUp_office h (by rw [hk]; decide), deliverOffice, if_pos hk]
    · rw [deliverUp_office h (by rw [hk]; decide), deliverOffice, if_neg (by rw [hk]; decide), if_pos hk]
    · rw [deliverUp_office h (by rw [hk]; decide), deliverOffice, if_neg (by rw [hk]; decide),
        if_neg (by rw [hk]; decide), if_pos hk]

end Sys2Proof.Machine

/-! PROOFS. Table entries as bytes (O27). -/

namespace Sys2Proof.Machine

/-! ## Fields of concatenated numbers -/

theorem field_skip {k n off len : Nat} (y : List Byte) (h : k ≤ off) :
    field (be k n ++ y) off len = field y (off - k) len := by
  rw [field_append_right (by rw [be_length]; exact h), be_length]

theorem field_flagByte_append (b : Bool) (y : List Byte) : field (flagByte b ++ y) 0 1 = if b then 1 else 0 := by
  cases b <;> exact field_be_append y (by decide)

theorem field_flagByte_skip {off len : Nat} (b : Bool) (y : List Byte) (h : 1 ≤ off) :
    field (flagByte b ++ y) off len = field y (off - 1) len := field_skip y h

theorem within_iff {lo hi n : Nat} : within lo hi n = true ↔ lo ≤ n ∧ n ≤ hi := by
  simp [within]

/-- A yes or no byte reads as it was sent. -/
theorem flag_reads (b : Bool) : ((if b = true then 1 else 0 : Nat) == 1) = b := by cases b <;> rfl

theorem flag_inRange (b : Bool) : isFlag (if b = true then 1 else 0) = true := by cases b <;> rfl

/-! ## The entries -/

theorem reach_roundTrip {r : ReachTable} (h : reachInRange r = true) :
    parseReach (reachBytes r) = some r ∧ (reachBytes r).length = 22 := by
  have hread : readReach (reachBytes r) = r := by
    simp only [reachInRange, Bool.and_eq_true, within_iff] at h
    simp (disch := omega) only [readReach, reachBytes, List.append_assoc, field_be_append, field_skip, field_be,
      Nat.reduceSub]
  exact ⟨by rw [parseReach, hread, if_pos h], by simp [reachBytes]⟩

theorem turnout_roundTrip {e : TurnoutEntry} (h : turnoutInRange e = true) :
    parseTurnout (turnoutBytes e) = some e ∧ (turnoutBytes e).length = 6 := by
  have hflag : field (turnoutBytes e) 0 1 = if e.enabled = true then 1 else 0 := by
    simp only [turnoutBytes, List.append_assoc, field_flagByte_append]
  have hread : readTurnout (turnoutBytes e) = e := by
    simp only [turnoutInRange, Bool.and_eq_true, within_iff] at h
    simp (disch := omega) only [readTurnout, turnoutBytes, List.append_assoc, field_flagByte_append, flag_reads,
      field_flagByte_skip, field_be_append, field_skip, field_be, Nat.reduceSub]
  exact ⟨by rw [parseTurnout, hread, hflag, flag_inRange, if_pos (by simpa using h)], by simp [turnoutBytes]⟩

theorem half_roundTrip {x : HalfCurve} (h : halfInRange x = true) :
    parseHalf (halfBytes x) = some x ∧ (halfBytes x).length = 24 := by
  have hread : readHalf (halfBytes x) = x := by
    simp only [halfInRange, halfPoints, List.all_cons, List.all_nil, Bool.and_eq_true, within_iff] at h
    simp (disch := omega) only [readHalf, readPoint, halfBytes, pointBytes, List.append_assoc, field_be_append, field_skip,
      field_be, Nat.reduceSub, Nat.reduceAdd]
  exact ⟨by rw [parseHalf, hread, if_pos h], by simp [halfBytes, pointBytes]⟩

theorem account_roundTrip {a : AccountEntry} (hnumber : a.number < 65536) (hallotment : a.allotment ≤ 4000000)
    (hoverdraft : a.overdraft ≤ 100000) :
    parseAccount (accountBytes a) = some a ∧ (accountBytes a).length = 13 := by
  have hpermitted := a.permitted.isLt
  have hclass := a.tariffClass.isLt
  have hfields : field (accountBytes a) 4 3 = a.allotment ∧ field (accountBytes a) 7 1 = (if a.active = true then 1 else 0)
      ∧ field (accountBytes a) 8 1 = a.tariffClass.val
      ∧ field (accountBytes a) 9 1 = (if a.frostEligible = true then 1 else 0)
      ∧ field (accountBytes a) 10 3 = a.overdraft := by
    simp (disch := omega) only [accountBytes, List.append_assoc, field_flagByte_append, field_flagByte_skip,
      field_be_append, field_skip, field_be, Nat.reduceSub, and_self]
  obtain ⟨h4, h7, h8, h9, h10⟩ := hfields
  have hread : readAccount (accountBytes a) = a := by
    have hhead : field (accountBytes a) 0 2 = a.number ∧ field (accountBytes a) 2 2 = a.permitted.toNat := by
      simp (disch := omega) only [accountBytes, List.append_assoc, field_be_append, field_skip, Nat.reduceSub, and_self]
    rw [readAccount, h4, h7, h8, h9, h10, hhead.1, hhead.2, flag_reads, flag_reads, BitVec.ofNat_toNat]
    simp [Fin.ofNat, Nat.mod_eq_of_lt hclass]
  refine ⟨?_, by simp [accountBytes]⟩
  rw [parseAccount, hread, h4, h7, h8, h9, h10, flag_inRange, flag_inRange, if_pos]
  simp only [Bool.and_eq_true, within_iff]
  exact ⟨⟨⟨⟨⟨Nat.zero_le _, hallotment⟩, trivial⟩, Nat.zero_le _, Nat.le_of_lt_succ hclass⟩, trivial⟩, Nat.zero_le _, hoverdraft⟩

theorem tariff_roundTrip {x : TariffEntry} (h : tariffInRange x = true) :
    parseTariff (tariffBytes x) = some x ∧ (tariffBytes x).length = 30 := by
  have hread : readTariff (tariffBytes x) = x := by
    simp only [tariffInRange, Bool.and_eq_true, within_iff] at h
    simp (disch := omega) only [readTariff, tariffBytes, List.append_assoc, field_be_append, field_skip, field_be,
      Nat.reduceSub]
  exact ⟨by rw [parseTariff, hread, if_pos h], by simp [tariffBytes]⟩

theorem timing_roundTrip {x : LineTiming} (h : timingInRange x = true) :
    parseTiming (timingBytes x) = some x ∧ (timingBytes x).length = 21 := by
  have hread : readTiming (timingBytes x) = x := by
    simp only [timingInRange, windowInRange, Bool.and_eq_true, within_iff] at h
    simp (disch := omega) only [readTiming, readWindow, timingBytes, windowBytes, List.append_assoc, field_be_append,
      field_skip, field_be, Nat.reduceSub, Nat.reduceAdd]
  exact ⟨by rw [parseTiming, hread, if_pos h], by simp [timingBytes, windowBytes]⟩

theorem scan_roundTrip {x : ScanTable} (h : scanInRange x = true) :
    parseScan (scanBytes x) = some x ∧ (scanBytes x).length = 6 := by
  have hflags : field (scanBytes x) 4 1 = (if x.inflow = true then 1 else 0)
      ∧ field (scanBytes x) 5 1 = (if x.outflow = true then 1 else 0) := by
    have hlast := field_flagByte_append x.outflow []
    rw [List.append_nil] at hlast
    simp (disch := omega) only [scanBytes, List.append_assoc, field_flagByte_append, field_flagByte_skip, hlast,
      field_skip, Nat.reduceSub, and_self]
  obtain ⟨h4, h5⟩ := hflags
  have hread : readScan (scanBytes x) = x := by
    rw [readScan, h4, h5, flag_reads, flag_reads]
    simp only [scanInRange, Bool.and_eq_true, within_iff] at h
    simp (disch := omega) only [scanBytes, List.append_assoc, field_be_append, field_skip, Nat.reduceSub]
  exact ⟨by rw [parseScan, hread, h4, h5, flag_inRange, flag_inRange, h]; rfl, by simp [scanBytes]⟩

theorem enables_roundTrip (e : BitVec 16) : readEnables (enablesBytes e) = e ∧ (enablesBytes e).length = 2 := by
  refine ⟨?_, by simp [enablesBytes]⟩
  rw [readEnables, enablesBytes, field_be e.isLt, BitVec.ofNat_toNat]
  simp

/-- Settles O27: each table's entry by the fields of its bytes. -/
theorem tableEntriesRoundTrip : Obligations.TableEntriesRoundTrip :=
  ⟨fun _ => reach_roundTrip, fun _ => turnout_roundTrip, fun _ => half_roundTrip, fun _ => account_roundTrip,
    fun _ => tariff_roundTrip, fun _ => timing_roundTrip, fun _ => scan_roundTrip, enables_roundTrip⟩

end Sys2Proof.Machine

/-! PROOFS. Requests, replies, commands in READY and STORE COMMIT (O15, O24, O25). -/

namespace Sys2Proof.Machine

open Sys2Proof.Safety

/-! ## Requests and replies (O15) -/

/-- A management command is its request, handed to the management unit of a running part. -/
theorem exec_request {c : Instr} {kind : Nat} {body : List Byte} {s : State} (h : asRequest c = some (kind, body)) :
    exec c s = .next (requestOf kind body s) := by
  cases c
  case tableWriteReach | tableWriteTurnouts | tableWriteRating | tableWriteAccounts | tableWriteTariff
      | tableWriteLineTiming | tableWriteScan | tableWriteAlertEnables | tableRead | storeCommit | statusRead | eventClear
      | billReadPeek | billReadCollect | orderRead | commandRestart | commandLockTariff | commandWipe =>
    obtain ⟨rfl, rfl⟩ := Prod.mk.inj (Option.some.inj h)
    rfl
  all_goals exact nomatch h

theorem exec_request_runs {c : Instr} {kind : Nat} {body : List Byte} {s : State} (h : asRequest c = some (kind, body))
    (hrun : Runs s) : exec c s = .next (takeRequest kind body s) := by
  rw [exec_request h, requestOf, whileRunning_runs hrun]

theorem exec_request_acted {c : Instr} {kind : Nat} {body : List Byte} {s : State} (h : asRequest c = some (kind, body))
    (ha : ActedOn kind (requestNumber body) s) : exec c s = .next (act kind body s) := by
  rw [exec_request_runs h ha.1, takeRequest_acted ha rfl]

theorem repeatOf_some {kind : Nat} {body : List Byte} {s : State} {r : LastReply} (h : s.mgmt.lastReply = some r)
    (hq : r.request = requestNumber body) (hk : r.kind = kind) : repeatOf kind body s = some r := by
  unfold repeatOf
  rw [h, Option.filter_some, if_pos (by simp [hq, hk])]

theorem repeatOf_none {kind : Nat} {body : List Byte} {s : State}
    (h : ∀ r, s.mgmt.lastReply = some r → ¬ (r.request = requestNumber body ∧ r.kind = kind)) :
    repeatOf kind body s = none := by
  unfold repeatOf
  rw [Option.filter_eq_none_iff]
  intro r hr
  simpa using h r hr

theorem takeRequest_pending {kind : Nat} {body : List Byte} {s : State}
    (hnew : ∀ r, s.mgmt.lastReply = some r → ¬ (r.request = requestNumber body ∧ r.kind = kind))
    (hstate : s.mgmt.state ≠ .ready) (hkind : kind ≠ 0x75) : takeRequest kind body s = busyPending kind body s := by
  rw [takeRequest, repeatOf_none hnew]
  exact if_pos ⟨hstate, hkind⟩

/-- A request whose fourth byte is its own draws no free value. -/
theorem busyPending_eq {kind : Nat} {body fourth : List Byte} {s : State} (hfourth : pendingFourth kind body s.free = fourth)
    (hdraws : pendingDraws kind body = 0) :
    busyPending kind body s = place .u
      (mkFrame ⟨0, 0⟩ (ownAddr s) 0x7D ([requestNumber body] ++ be 1 kind ++ be 1 3 ++ fourth) false) s := by
  unfold busyPending busy
  rw [hfourth, hdraws, sendOffice_eq]
  rfl

/-- Settles O15: by the reply stored, and by the unit's state. -/
theorem repeatsAndPendingCommands : Obligations.RepeatsAndPendingCommands := by
  refine ⟨fun q kind replyKind reason body s => ⟨rfl, rfl, ?_⟩, fun c kind body s hc hrun => ⟨fun r hr hq hk => ?_,
    fun hnew hstate hkind => ⟨fun hother => ?_, fun region hcommit hregion => ?_⟩⟩⟩
  · unfold done reply mgmtReplyBody
    rw [List.append_nil]
  · rw [exec_request_runs hc hrun, takeRequest, repeatOf_some hr hq hk]
    exact congrArg _ (sendOffice_eq _ _ _ _)
  · have hpending := busyPending_eq (kind := kind) (body := body) (fourth := []) (s := s) (if_neg hother)
      (if_neg fun h => hother h.1)
    rw [exec_request_runs hc hrun, takeRequest_pending hnew hstate hkind, hpending, List.append_nil]
  · have hlength : ¬ body.length < 2 := by
      intro h
      rw [List.getElem?_eq_none (Nat.le_of_lt_succ h)] at hregion
      exact nomatch hregion
    have hpending := busyPending_eq (kind := kind) (body := body) (fourth := [region]) (s := s)
      (by rw [pendingFourth, if_pos hcommit, hregion]; rfl) (if_neg fun h => hlength h.2)
    rw [exec_request_runs hc hrun, takeRequest_pending hnew hstate hkind, hpending]

/-! ## What an answer leaves alone -/

theorem answer_store (q : Byte) (k r : Nat) (b : List Byte) (s : State) : (answer q k r b s).store = s.store := rfl

theorem act_command (b : List Byte) (s : State) : act Kind.command b s = actCommand b s := rfl

theorem act_storeCommit (b : List Byte) (s : State) : act Kind.storeCommit b s = actStoreCommit b s := rfl

/-! ## Store operations begin (R178 to R180) -/

theorem takeSequence_next {s : State} (h : s.store.nextSeq < 4294967295) :
    takeSequence s = { s with store := { s.store with nextSeq := s.store.nextSeq + 1 } } := if_pos h

theorem beginWrite_next {s : State} (h : s.store.nextSeq < 4294967295) (n : Nat) (i : Image) (c : Option Byte) (b : Bool) :
    beginWrite n i c b s = { s with store := { s.store with
      regions := eraseRegion (imageRegion i) s.store.regions
      nextSeq := s.store.nextSeq + 1
      op := some ⟨⟨s.store.nextSeq, n⟩, i, c, b⟩ } } := by
  unfold beginWrite
  rw [takeSequence_next h]

theorem requestSnapshot_idle {s : State} (hwiping : wiping s = false) (hop : s.store.op = none) :
    requestSnapshot s = beginSnapshot s := by
  unfold requestSnapshot
  rw [if_neg (by rw [hwiping]; exact Bool.false_ne_true), hop]

theorem requestSnapshot_waits {s : State} (hwiping : wiping s = false) (hop : s.store.op.isSome = true) :
    requestSnapshot s = { s with store := { s.store with waiting := true } } := by
  obtain ⟨op, hop⟩ := Option.isSome_iff_exists.1 hop
  unfold requestSnapshot
  rw [if_neg (by rw [hwiping]; exact Bool.false_ne_true), hop]

theorem beginSnapshot_next {s : State} (h : s.store.nextSeq < 4294967295) :
    beginSnapshot s = { s with store := { s.store with
      regions := { s.store.regions with accountState := none }
      nextSeq := s.store.nextSeq + 1
      waiting := false
      op := some ⟨⟨s.store.nextSeq, s.clock.period⟩, .accountState (accountCopy s), none, s.mgmt.state == .restartPending⟩ } } :=
  beginWrite_next (s := { s with store := { s.store with waiting := false } }) h _ _ _ _

/-! ## Commands in READY (O24) -/

theorem pendingGap_eq (run : Nat) (r : StationRec) :
    pendingGap run r = if r.state = .lost then run - r.ref else 0 := by
  cases hstate : r.state <;> simp [pendingGap, hstate]

theorem wipeAllowed_iff {s : State} :
    wipeAllowed s = true ↔ s.billing.bills = [] ∧ s.orders.table = [] ∧ s.carriage.list = [] := by
  simp [wipeAllowed, and_assoc]

section

variable {q : Byte} {s : State}

theorem exec_commandRestart (ha : ActedOn 0x7C q s) : exec (.commandRestart q) s = .next (actRestart q s) :=
  exec_request_acted (c := .commandRestart q) rfl ha

theorem exec_commandLockTariff (ha : ActedOn 0x7C q s) : exec (.commandLockTariff q) s = .next (actLock q s) :=
  exec_request_acted (c := .commandLockTariff q) rfl ha

theorem exec_commandWipe (ha : ActedOn 0x7C q s) : exec (.commandWipe q) s = .next (actWipe q s) :=
  exec_request_acted (c := .commandWipe q) rfl ha

theorem actWipe_allowed (h : s.billing.bills = [] ∧ s.orders.table = [] ∧ s.carriage.list = []) :
    actWipe q s = requestWipe (reply q Kind.command Result.accepted [] (setMgmt .wipePending s)) :=
  if_pos (wipeAllowed_iff.2 h)

theorem actWipe_refused (h : s.billing.bills ≠ [] ∨ s.orders.table ≠ [] ∨ s.carriage.list ≠ []) :
    actWipe q s = refuse q Kind.command Reason.notEmpty s := by
  refine if_neg fun hallowed => ?_
  obtain ⟨hbills, horders, hlist⟩ := wipeAllowed_iff.1 hallowed
  simp [hbills, horders, hlist] at h

end

/-- Settles O24: each command's effect in READY, by the store's and the lock's state. -/
theorem commandsInReady : Obligations.CommandsInReady := by
  refine ⟨fun s => ⟨rfl, rfl, rfl, rfl, rfl, rfl, rfl, rfl, rfl, fun x => ?_⟩, fun q s ha hwiping => ?_⟩
  · show getAt (mapTable (copiedUnmetered s.clock.run) s.scan.stations) x = _
    rw [getAt_mapTable, copiedUnmetered, pendingGap_eq]
    rfl
  · refine ⟨fun hop hseq => ?_, fun hop => ?_, fun hlock => ?_, fun hlock => ?_, fun hheld => ?_,
      fun hbills horders hlist hop => ?_, fun hbills horders hlist hop => ?_⟩
    · rw [exec_commandRestart ha, actRestart, requestSnapshot_idle (by exact hwiping) (by exact hop),
        beginSnapshot_next (by exact hseq)]
      rfl
    · rw [exec_commandRestart ha, actRestart, requestSnapshot_waits (by exact hwiping) (by exact hop)]
      rfl
    · rw [exec_commandLockTariff ha, actLock, lockTariff, if_neg (by rw [hlock]; exact Bool.false_ne_true)]
    · rw [exec_commandLockTariff ha, actLock, lockTariff, if_pos hlock]
    · rw [exec_commandWipe ha, actWipe_refused hheld]
    · rw [exec_commandWipe ha, actWipe_allowed ⟨hbills, horders, hlist⟩, requestWipe]
      simp only [reply, answer_store, setMgmt, hop]
      rfl
    · obtain ⟨op, hop⟩ := Option.isSome_iff_exists.1 hop
      rw [exec_commandWipe ha, actWipe_allowed ⟨hbills, horders, hlist⟩, requestWipe]
      simp only [reply, answer_store, setMgmt, hop]
      rfl

/-! ## STORE COMMIT (O25) -/

theorem regionOf_regionCode (r : RegionId) : regionOf (regionCode r) = some r := by cases r <;> rfl

theorem regionOf_eq_none {n : Nat} (h : n = 0 ∨ 9 < n) : regionOf n = none := by
  unfold regionOf
  split <;> first | omega | rfl

theorem incomplete_none {α : Type} (bytes : α → List Byte) : Incomplete bytes none := fun _ _ h => nomatch h

theorem eraseRegion_lacks (r : RegionId) (g : Regions) : LacksRegion (eraseRegion r g) r := by
  intro h i hi
  subst hi
  cases i <;> exact fun hc => nomatch hc

theorem eraseRegion_others {r : RegionId} {i : Image} (hi : imageRegion i ≠ r) (g : Regions) (h : Header) :
    HoldsCopy (eraseRegion r g) h i ↔ HoldsCopy g h i := by
  cases r <;> cases i <;> first | exact Iff.rfl | exact absurd rfl hi

/-- Settles O25: by the store's state and the body's form. -/
theorem storeCommitBegins : Obligations.StoreCommitBegins := by
  refine ⟨⟨rfl, fun r s => by cases r <;> rfl, fun r g => ⟨eraseRegion_lacks r g, fun h i hi => eraseRegion_others hi g h⟩⟩,
    fun q r s ha => ?_⟩
  have hcode : field ([q] ++ be 1 (regionCode r)) 1 1 = regionCode r := by cases r <;> rfl
  have hacted : exec (.storeCommit ([q] ++ be 1 (regionCode r))) s
      = .next (if storeBusy s then busy q Kind.storeCommit (be 1 (regionCode r)) s else beginCommit q r s) := by
    rw [exec_request_acted (c := .storeCommit ([q] ++ be 1 (regionCode r))) rfl ha, act_storeCommit, actStoreCommit, hcode,
      regionOf_regionCode]
    rfl
  refine ⟨fun hop hwiping hseq => ?_, fun hop => ?_, fun body hq hbody => ?_⟩
  · have hidle : ¬ storeBusy s = true := by simp [storeBusy, hop, hwiping]
    rw [hacted, if_neg hidle, beginCommit]
    dsimp only
    rw [beginWrite_next (by exact hseq)]
    cases r <;> rfl
  · have hbusy : storeBusy s = true := by simp [storeBusy, hop]
    rw [hacted, if_pos hbusy, busy, sendOffice_eq]
    rfl
  · subst hq
    rw [exec_request_acted (c := .storeCommit body) rfl ha, act_storeCommit, actStoreCommit]
    obtain hlength | hregion := hbody
    · split
      · rfl
      · rw [if_pos hlength]
    · rw [regionOf_eq_none hregion]

end Sys2Proof.Machine

/-! PROOFS. TABLE WRITE: the tests of size, table and entry passed, and a REACH write (O17). -/

namespace Sys2Proof.Machine

open Sys2Proof.Safety

/-! ## A TABLE WRITE whose table and entry stand -/

theorem writeBody_length (q e : Byte) (code : Nat) (b : List Byte) : (writeBody q code e b).length = 3 + b.length := by
  simp [writeBody]
  omega

theorem writeBody_code (q e : Byte) {code : Nat} (b : List Byte) (h : code < 256) :
    field (writeBody q code e b) 1 1 = code := by
  simp [writeBody, field, beVal, be, Nat.mod_eq_of_lt h]

theorem writeBody_entry (q e : Byte) (code : Nat) (b : List Byte) : field (writeBody q code e b) 2 1 = e.toNat := by
  simp [writeBody, field, beVal, be]

theorem writeBody_fields (q e : Byte) (code : Nat) (b : List Byte) : (writeBody q code e b).drop 3 = b := rfl

theorem tryWrite_tested {q e : Byte} {code : Nat} {b : List Byte} (s : State) (hcode : isTable code = true)
    (hentry : entryOk code e.toNat = true) (hsize : b.length = entrySize code) :
    tryWrite (writeBody q code e b) s = writeEntry code e.toNat b s := by
  have hle : code < 256 := by
    have := within_iff.1 hcode
    omega
  unfold tryWrite
  dsimp only
  rw [writeBody_code q e b hle, writeBody_entry, writeBody_length, writeBody_fields, if_neg (by omega),
    if_neg (by rw [hcode]; decide), if_neg (by rw [hentry]; decide)]

section

variable {c : Instr} {q e : Byte} {code : Nat} {b : List Byte} {s : State}

/-- A TABLE WRITE that is acted on, its size, table and entry tested, is answered by its table's own write. -/
theorem exec_tableWrite_accepted {t : State} (hc : asRequest c = some (0x71, writeBody q code e b)) (ha : ActedOn 0x71 q s)
    (hcode : isTable code = true) (hentry : entryOk code e.toNat = true) (hsize : b.length = entrySize code)
    (hwrite : writeEntry code e.toNat b s = .ok t) : exec c s = .next (done q 0x71 t) := by
  have hact : act 0x71 (writeBody q code e b) s = actTableWrite (writeBody q code e b) s := rfl
  rw [exec_request_acted hc ha, hact, actTableWrite, tryWrite_tested s hcode hentry hsize, hwrite]
  rfl

theorem exec_tableWrite_refused {reason : Nat} (hc : asRequest c = some (0x71, writeBody q code e b))
    (ha : ActedOn 0x71 q s) (hcode : isTable code = true) (hentry : entryOk code e.toNat = true)
    (hsize : b.length = entrySize code) (hwrite : writeEntry code e.toNat b s = .error reason) :
    exec c s = .next (refuse q 0x71 reason s) := by
  have hact : act 0x71 (writeBody q code e b) s = actTableWrite (writeBody q code e b) s := rfl
  rw [exec_request_acted hc ha, hact, actTableWrite, tryWrite_tested s hcode hentry hsize, hwrite]
  rfl

end

/-! ## The warning level's comparison (R182, R183) -/

theorem compareSupply_eq (s : State) :
    compareSupply s = if s.supply.status = .normal ∧ s.supply.level < warnNow s then passToLow s
      else if s.supply.status = .low ∧ warnNow s + 300 < s.supply.level then setStatus .normal s else s := by
  unfold compareSupply fallCheck
  by_cases hfall : s.supply.status = .normal ∧ s.supply.level < warnNow s
  · have hlevel : (passToLow s).supply.level = s.supply.level := by
      unfold passToLow
      split
      · rfl
      · have hsupply : (requestSnapshot (raise .supplyLow (setStatus .low s))).supply = (setStatus .low s).supply :=
          (requestSnapshot_within _).keeps .supply (by decide)
        rw [hsupply]
        rfl
    have hwarn : warnNow (passToLow s) = warnNow s := by
      unfold passToLow
      split
      · rfl
      · have htables : (requestSnapshot (raise .supplyLow (setStatus .low s))).tables = s.tables :=
          (requestSnapshot_within _).keeps .tables (by decide)
        rw [warnNow, htables]
        rfl
    rw [if_pos hfall, if_pos hfall, riseCheck, hlevel, hwarn]
    refine if_neg ?_
    have := hfall.2
    omega
  · rw [if_neg hfall, if_neg hfall]
    rfl

theorem passToLow_running {s : State} (h : s.loading = none) :
    passToLow s = requestSnapshot (raise .supplyLow (setStatus .low s)) := by
  unfold passToLow
  rw [h]
  exact if_neg Bool.false_ne_true

theorem warnLevel_eq (n : Nat) : warnLevel n = [10800, 11200, 11600, 12000].getD n 12000 := by
  match n with
  | 0 | 1 | 2 | 3 => rfl
  | k + 4 => rfl

/-! ## A limit that every booked draw keeps sheds nothing (R94) -/

theorem shedDue_iff {o : OrderRec} {limit : Nat} {s : State} :
    shedDue o limit s = true ↔ ∃ t, now s ≤ t ∧ o.start ≤ t ∧ t < o.stop
      ∧ ((inGeneral o = true ∧ limit < generalSum s.orders.table t)
        ∨ (inFrost o = true ∧ limit < frostSum s.orders.table t)) := by
  have hgeneral := coversOver_iff (o := o) (a := now s) (b := o.stop) (limit := limit) (p := inGeneral) (table := s.orders.table)
  have hfrost := coversOver_iff (o := o) (a := now s) (b := o.stop) (limit := limit) (p := inFrost) (table := s.orders.table)
  unfold shedDue generalSum frostSum
  dsimp only
  rw [Bool.or_eq_true, Bool.and_eq_true, Bool.and_eq_true]
  constructor
  · rintro (⟨hin, hover⟩ | ⟨hin, hover⟩)
    · obtain ⟨t, h1, h2, h3, -, h5⟩ := hgeneral.1 hover
      exact ⟨t, h2, h1, h3, .inl ⟨hin, h5⟩⟩
    · obtain ⟨t, h1, h2, h3, -, h5⟩ := hfrost.1 hover
      exact ⟨t, h2, h1, h3, .inr ⟨hin, h5⟩⟩
  · rintro ⟨t, h1, h2, h3, ⟨hin, hover⟩ | ⟨hin, hover⟩⟩
    · exact .inl ⟨hin, hgeneral.2 ⟨t, h2, h1, h3, h3, hover⟩⟩
    · exact .inr ⟨hin, hfrost.2 ⟨t, h2, h1, h3, h3, hover⟩⟩

theorem shed_of_drawLaw {limit : Nat} {s : State} (h : drawLaw limit s = true) : shed limit s = s := by
  have hturn : ∀ tag, shedTag limit s tag = s := fun tag => by
    unfold shedTag
    split
    · rfl
    next o _ =>
      refine if_neg fun hdue => ?_
      obtain ⟨t, hnow, -, -, hover⟩ := shedDue_iff.1 hdue
      have hsum := drawLaw_iff.1 h t hnow
      unfold bookedDraw at hsum
      omega
  have hwalk : (shedOrder s.orders.table).foldl (shedTag limit) s = s :=
    List.foldlRecOn (motive := fun x => x = s) _ _ rfl fun x hx tag _ => by rw [hx, hturn]
  unfold shed
  rw [hwalk]
  exact if_neg (Nat.lt_irrefl _)

theorem recomputeDraw_of_drawLaw {s : State}
    (h : drawLaw (drawLimitOf s.tables.reach.localDraw s.clock.curtail) s = true) :
    recomputeDraw s = { s with clock := { s.clock with
      drawLimit := drawLimitOf s.tables.reach.localDraw s.clock.curtail } } := by
  unfold recomputeDraw
  dsimp only
  split
  · have hlaw : ∀ c : Clock, c.seconds = s.clock.seconds →
        drawLaw (drawLimitOf s.tables.reach.localDraw s.clock.curtail) { s with clock := c } = true := fun c hc =>
      drawLaw_iff.2 fun t ht => drawLaw_iff.1 h t (by unfold now at ht ⊢; rwa [← hc])
    exact shed_of_drawLaw (hlaw _ rfl)
  · rfl

/-! ## REACH (O17) -/

theorem writeReach_refused {r : ReachTable} {b : List Byte} {s : State} {reason : Nat} (h : parseReach b = some r)
    (hc : reachConflict r s = some reason) : writeReach b s = .error reason := by
  unfold writeReach
  rw [h]
  dsimp only
  rw [hc]

theorem writeReach_accepted {r : ReachTable} {b : List Byte} {s : State} (h : parseReach b = some r)
    (hc : reachConflict r s = none) : writeReach b s = .ok (acceptReach r s) := by
  unfold writeReach
  rw [h]
  dsimp only
  rw [hc]

theorem runs_iff {s : State} : Runs s ↔ s.supply.status ≠ .backup ∧ s.loading = none := by
  simp [Runs, isRunning]

theorem anyRecord_iff (s : State) :
    (!s.orders.table.isEmpty || !s.carriage.list.isEmpty) = true ↔ s.orders.table ≠ [] ∨ s.carriage.list ≠ [] := by
  simp

theorem carriageLaw_eq_false {capacity tail : Nat} {s : State} :
    carriageLaw capacity tail s = false ↔ ∃ t, now s ≤ t
      ∧ capacity < inflowSum tail s.tables.reach.travelLag s.orders.table s.carriage.list t := by
  rw [← Bool.not_eq_true, carriageLaw_iff]
  simp only [not_forall, Nat.not_le, exists_prop]

theorem drawLaw_eq_false {limit : Nat} {s : State} :
    drawLaw limit s = false ↔ ∃ t, now s ≤ t ∧ limit < bookedDraw s.orders.table t := by
  rw [← Bool.not_eq_true, drawLaw_iff]
  simp only [not_forall, Nat.not_le, exists_prop]

theorem acceptReach_eq {r : ReachTable} {s : State} (hrun : s.loading = none)
    (hdraw : drawLaw (drawLimitOf r.localDraw s.clock.curtail) s = true) :
    acceptReach r s =
      let written := { s with
        tables := { s.tables with reach := r }
        clock := { s.clock with drawLimit := drawLimitOf r.localDraw s.clock.curtail } }
      if s.tables.reach.warnChoice = r.warnChoice then written
      else if s.supply.status = .normal ∧ s.supply.level < warnLevel r.warnChoice then
        requestSnapshot (raise .supplyLow (setStatus .low written))
      else if s.supply.status = .low ∧ warnLevel r.warnChoice + 300 < s.supply.level then setStatus .normal written
      else written := by
  unfold acceptReach takeWarnChoice
  rw [recomputeDraw_of_drawLaw (by exact hdraw), compareSupply_eq, passToLow_running (by exact hrun)]
  rfl

/-- Settles O17: by the tests of R35 in turn. -/
theorem reachWrite : Obligations.ReachWrite := by
  intro r q s ha hr held limit inUse passed exceeded overdrawn written warn level status compared answer
  obtain ⟨hparse, hlength⟩ := reach_roundTrip hr
  have hrefused : ∀ reason, reachConflict r s = some reason → answer = .next (refuse q 0x71 reason s) := fun _ hc =>
    exec_tableWrite_refused (e := 0) (code := 1) rfl ha rfl rfl hlength (writeReach_refused hparse hc)
  have haccepted : reachConflict r s = none → answer = .next (done q 0x71 (acceptReach r s)) := fun hc =>
    exec_tableWrite_accepted (e := 0) (code := 1) rfl ha rfl rfl hlength (writeReach_accepted hparse hc)
  have hrun : s.loading = none := (runs_iff.1 ha.1).2
  have hsecond : ¬ inUse → reachConflict r s = if passed then some 13
      else if carriageLaw r.capacity r.tailMin s = false then some 11
      else if drawLaw limit s = false then some 12 else none := fun h =>
    if_neg fun hc => h ⟨hc.1, (anyRecord_iff s).1 hc.2⟩
  refine ⟨fun h => ?_, fun h h' => ?_, fun h h' hx => ?_, fun h h' hx hd => ?_, fun h h' hx hd => ?_⟩
  · exact hrefused 10 (if_pos ⟨h.1, (anyRecord_iff s).2 h.2⟩)
  · exact hrefused 13 (by rw [hsecond h, if_pos h'])
  · exact hrefused 11 (by rw [hsecond h, if_neg h', if_pos (carriageLaw_eq_false.2 hx)])
  · exact hrefused 12 (by
      rw [hsecond h, if_neg h', if_neg fun hc => hx (carriageLaw_eq_false.1 hc), if_pos (drawLaw_eq_false.2 hd)])
  · have hconflict : reachConflict r s = none := by
      rw [hsecond h, if_neg h', if_neg fun hc => hx (carriageLaw_eq_false.1 hc),
        if_neg fun hc => hd (drawLaw_eq_false.1 hc)]
    have hdraw : drawLaw limit s = true := by
      cases hlaw : drawLaw limit s with
      | true => rfl
      | false => exact absurd (drawLaw_eq_false.1 hlaw) hd
    have haccept := acceptReach_eq hrun hdraw
    rw [warnLevel_eq] at haccept
    rw [haccepted hconflict, haccept]
    rfl

end Sys2Proof.Machine

/-! PROOFS. TURNOUTS and ACCOUNTS writes (O18, O19). -/

namespace Sys2Proof.Machine

open Sys2Proof.Safety

/-! ## TURNOUTS (O18) -/

/-- An entry number in a byte. -/
theorem toNat_succ_byte {n : Nat} (i : Fin n) (h : n ≤ 64) : (BitVec.ofNat 8 (i.val + 1)).toNat = i.val + 1 := by
  have := i.isLt
  rw [BitVec.toNat_ofNat, Nat.mod_eq_of_lt (by omega)]

theorem exec_writeTurnouts {t : Turnout} {e : TurnoutEntry} {q : Byte} {s : State} (ha : ActedOn 0x71 q s)
    (he : turnoutInRange e = true) :
    exec (.tableWriteTurnouts q (BitVec.ofNat 8 (t.val + 1)) (turnoutBytes e)) s
      = .next (done q 0x71 (acceptTurnout t e s)) := by
  obtain ⟨hparse, hlength⟩ := turnout_roundTrip he
  have hnumber := toNat_succ_byte t (by decide)
  refine exec_tableWrite_accepted (code := 2) rfl ha rfl ?_ hlength ?_
  · rw [hnumber]
    exact within_iff.2 ⟨Nat.le_add_left _ _, t.isLt⟩
  · rw [hnumber]
    show writeTurnout _ _ s = _
    rw [writeTurnout, turnoutOf_succ, hparse]

theorem checkCommand_disabled {t : Turnout} {s : State} (h : (getAt s.tables.turnouts t).enabled = false) :
    checkCommand t s = s := if_neg (by rw [h]; exact Bool.false_ne_true)

theorem checkCommand_closed {t : Turnout} {s : State} (h : (getAt s.tables.turnouts t).enabled = true)
    (hg : (getAt s.gates t).state = .closed) : checkCommand t s = gateSet t 0 false true s := by
  unfold checkCommand
  rw [if_pos h, hg]

theorem checkCommand_fault {t : Turnout} {s : State} (h : (getAt s.tables.turnouts t).enabled = true)
    {c : FaultCause} (hg : (getAt s.gates t).state = .fault c) : checkCommand t s = gateSet t 0 false false s := by
  unfold checkCommand
  rw [if_pos h, hg]

theorem checkCommand_busy {t : Turnout} {s : State}
    (hg : (getAt s.gates t).state = .moving ∨ (getAt s.gates t).state = .opened) : checkCommand t s = s := by
  unfold checkCommand
  obtain hg | hg := hg <;> rw [hg] <;> exact ite_self _

theorem checkCommand_unassigned {t : Turnout} {s : State} (h : ownReach s = 0) : checkCommand t s = s := by
  unfold checkCommand
  split
  · split
    · exact gateSet_unassigned h _ _ _ _
    · exact gateSet_unassigned h _ _ _ _
    · rfl
  · rfl

section

variable {t : Turnout} {e : TurnoutEntry} {s : State}

theorem turnoutStored_entry : getAt (turnoutStored t e s).tables.turnouts t = e := getAt_putAt_self _ _ _

theorem acceptTurnout_ended (h : e.enabled = false) (h' : (getAt s.tables.turnouts t).enabled = true) :
    acceptTurnout t e s = endTurnout t (turnoutStored t e s) := by
  have htables : (endTurnout t (turnoutStored t e s)).tables = (turnoutStored t e s).tables :=
    (endTags_within _ _ _).keeps .tables (by decide)
  rw [acceptTurnout_eq, h, h']
  refine checkCommand_disabled ?_
  rw [if_pos (by decide), htables, turnoutStored_entry, h]

theorem acceptTurnout_unended (h : e.enabled = true ∨ (getAt s.tables.turnouts t).enabled = false) :
    acceptTurnout t e s = checkCommand t (turnoutStored t e s) := by
  rw [acceptTurnout_eq]
  obtain h | h := h <;> rw [h] <;> simp

end

/-- Settles O18: by the entry's enable field before and after, and by the gate. -/
theorem turnoutsWrite : Obligations.TurnoutsWrite := by
  intro t e q s ha he written commanded g base answer
  have hanswer : answer = .next (done q 0x71 (acceptTurnout t e s)) := exec_writeTurnouts ha he
  have henabled : e.enabled = true → acceptTurnout t e s = checkCommand t written := fun h => acceptTurnout_unended (.inl h)
  have hentry : e.enabled = true → (getAt written.tables.turnouts t).enabled = true := fun h => by
    rw [← h]
    exact congrArg TurnoutEntry.enabled (turnoutStored_entry (s := s))
  refine ⟨fun h h' => ?_, fun h h' => ?_, fun h hown hg => ?_, fun h hown hg => ?_, fun h hown => ?_, fun h hg => ?_⟩
  · rw [hanswer, acceptTurnout_ended h h']
    rfl
  · rw [hanswer, acceptTurnout_unended (.inr h'), checkCommand_disabled]
    · rfl
    · rw [turnoutStored_entry, h]
  · have hset := gateSet_assigned (s := written) (by exact hown) t 0 false true
    have hlimit : getAt written.tables.turnouts t = e := turnoutStored_entry
    rw [hanswer, henabled h, checkCommand_closed (hentry h) (by exact hg), hset, commandedGate, if_pos rfl, hlimit]
    rfl
  · obtain ⟨c, hg⟩ := hg
    have hset := gateSet_assigned (s := written) (by exact hown) t 0 false false
    rw [hanswer, henabled h, checkCommand_fault (hentry h) (by exact hg), hset]
    rfl
  · rw [hanswer, henabled h, checkCommand_unassigned (by exact hown)]
  · rw [hanswer, henabled h, checkCommand_busy (by exact hg)]

end Sys2Proof.Machine

/-! PROOFS. ACCOUNTS writes (O19). -/

namespace Sys2Proof.Machine

open Sys2Proof.Safety

section

variable {i : Fin 64} {a : AccountEntry} {s : State}

theorem slotOf_succ (i : Fin 64) : slotOf (i.val + 1) = i := by
  have := i.isLt
  simp [slotOf, Fin.ofNat, Nat.mod_eq_of_lt this]

theorem writeEntry_accounts {b : List Byte} (h : parseAccount b = some a) :
    writeEntry 4 (BitVec.ofNat 8 (i.val + 1)).toNat b s
      = (accountConflict i a s).elim (.ok (acceptAccount i a s)) .error := by
  rw [toNat_succ_byte i (Nat.le_refl _)]
  show writeAccount _ b s = _
  unfold writeAccount
  rw [h, slotOf_succ]
  dsimp only
  cases accountConflict i a s <;> rfl

theorem heldElsewhere_iff {n : Nat} :
    heldElsewhere i n s = true ↔ ∃ j, j ≠ i ∧ (getAt s.tables.accounts j).number = n := by
  simp [heldElsewhere]

theorem countersInUse_iff {c : Counters} : countersInUse c = true ↔ { c with void := false } ≠ ({} : Counters) := by
  simp [countersInUse]

/-- The state in which a slot holds an entry and its counters. -/
def slotStored (i : Fin 64) (e : AccountEntry) (k : Counters) (s : State) : State :=
  { s with
    tables := { s.tables with accounts := putAt s.tables.accounts i e }
    metering := { s.metering with counters := putAt s.metering.counters i k } }

/-- A write that draws no free value stores its entry and its counters, and nothing else. -/
theorem accountStored_eq (hdraws : renumberDraws (getAt s.tables.accounts i).number a.number (getAt s.metering.counters i) = 0) :
    accountStored i a s = slotStored i (storedAccount a)
      (writtenCounters (getAt s.tables.accounts i).number a.number s.free (getAt s.metering.counters i)) s := by
  unfold accountStored
  dsimp only
  rw [hdraws]
  rfl

theorem acceptAccount_other (h : ¬ ((getAt s.tables.accounts i).number ≠ 0 ∧ (getAt s.tables.accounts i).number = a.number)) :
    acceptAccount i a s = accountStored i a s := by
  rw [acceptAccount_eq, if_neg h]

theorem acceptAccount_new (held : (getAt s.tables.accounts i).number = 0) (ha : a.number ≠ 0) :
    acceptAccount i a s = slotStored i a {} s := by
  rw [acceptAccount_other fun h => h.1 held, accountStored_eq (if_neg fun h => h.1 held), storedAccount, if_neg ha,
    writtenCounters, if_pos (.inl held)]

theorem acceptAccount_deleted (ha : a.number = 0) : acceptAccount i a s = slotStored i {} {} s := by
  rw [acceptAccount_other fun h => h.1 (h.2.trans ha), accountStored_eq (if_neg fun h => h.2.1 ha), storedAccount,
    if_pos ha, writtenCounters, if_pos (.inr ha)]

theorem acceptAccount_renumbered (held : (getAt s.tables.accounts i).number ≠ 0) (ha : a.number ≠ 0)
    (hne : (getAt s.tables.accounts i).number ≠ a.number) (hvoid : (getAt s.metering.counters i).void = false) :
    acceptAccount i a s = slotStored i a (getAt s.metering.counters i) s := by
  have hkept : { getAt s.metering.counters i with void := (getAt s.metering.counters i).void && Config.freeVoid s.free }
      = getAt s.metering.counters i := by
    rw [hvoid, Bool.false_and, ← hvoid]
  rw [acceptAccount_other fun h => hne h.2, accountStored_eq (if_neg fun h => by simp [hvoid] at h), storedAccount,
    if_neg ha, writtenCounters, if_neg (by simp [held, ha]), if_neg hne, hkept]

theorem acceptAccount_kept (held : (getAt s.tables.accounts i).number ≠ 0)
    (heq : (getAt s.tables.accounts i).number = a.number) :
    acceptAccount i a s = keepAccount i (getAt s.tables.accounts i) a (slotStored i a (getAt s.metering.counters i) s) := by
  have ha : a.number ≠ 0 := heq ▸ held
  rw [acceptAccount_eq, if_pos ⟨held, heq⟩, accountStored_eq (if_neg fun h => h.2.2.1 heq), storedAccount, if_neg ha,
    writtenCounters, if_neg (by simp [held, ha]), if_pos heq]

end

/-- A record is ended by a write that keeps its account when the account closes or loses the record's turnout. -/
theorem disabledBy_eq {old new : AccountEntry} (h : old.number = new.number) :
    disabledBy old new = fun o : OrderRec => o.account == new.number && ((old.active && !new.active)
      || (old.permitted.getLsbD o.turnout.val && !new.permitted.getLsbD o.turnout.val)) := by
  funext o
  unfold disabledBy permits removedTurnouts
  rw [h, BitVec.getLsbD_and, BitVec.getLsbD_not, decide_eq_true o.turnout.isLt, Bool.true_and]

theorem lowersLimit_iff {old new : AccountEntry} :
    lowersLimit old new = true ↔ new.allotment < old.allotment ∨ new.overdraft < old.overdraft := by
  simp [lowersLimit]

theorem limitReached_iff {a : AccountEntry} {v : Nat} {c : OrderClass} :
    limitReached a v c = true ↔ classLimit a c ≤ v := by
  simp [limitReached]

theorem allotmentTags_eq (a : AccountEntry) (v : Nat) (s : State) :
    allotmentTags a v s = (s.orders.table.filter fun o =>
      isRunningRec o && o.account == a.number && decide (classLimit a o.cls ≤ v)).map (·.tag) := by
  have hpick : (fun o => (limitReached a v .normal && isRunningOf a.number .normal o)
      || (limitReached a v .frost && isRunningOf a.number .frost o))
      = fun o : OrderRec => isRunningRec o && o.account == a.number && decide (classLimit a o.cls ≤ v) := by
    funext o
    cases hcls : o.cls <;> simp [isRunningOf, limitReached, hcls, Bool.and_comm]
  unfold allotmentTags
  rw [hpick]
  rfl

section

variable {i : Fin 64} {a : AccountEntry} {c : Counters} {s : State}

theorem allotmentAtWrite_below (htables : getAt s.tables.accounts i = a) (hmetering : getAt s.metering.counters i = c)
    (h : ∀ cls, c.openVol < classLimit a cls) : allotmentAtWrite i s = s := by
  have hreached : ∀ cls, limitReached a c.openVol cls = false := fun cls => by
    rw [← Bool.not_eq_true, limitReached_iff]
    exact Nat.not_le.2 (h cls)
  unfold allotmentAtWrite
  dsimp only
  rw [htables, hmetering, hreached, hreached]
  rfl

theorem allotmentAtWrite_reached (htables : getAt s.tables.accounts i = a) (hmetering : getAt s.metering.counters i = c)
    {cls : OrderClass} (h : classLimit a cls ≤ c.openVol) :
    allotmentAtWrite i s = endTags .allotment ((s.orders.table.filter fun o =>
      isRunningRec o && o.account == a.number && decide (classLimit a o.cls ≤ c.openVol)).map (·.tag))
        (raise .allotmentReached s) := by
  have hreached : (limitReached a c.openVol .normal || limitReached a c.openVol .frost) = true := by
    rw [Bool.or_eq_true, limitReached_iff, limitReached_iff]
    cases cls
    · exact .inl h
    · exact .inr h
  unfold allotmentAtWrite
  dsimp only
  rw [htables, hmetering, if_pos hreached, allotmentTags_eq]

end

theorem exec_writeAccounts {i : Fin 64} {a : AccountEntry} {q : Byte} {s : State} (ha : ActedOn 0x71 q s)
    (hnumber : a.number < 65536) (hallotment : a.allotment ≤ 4000000) (hoverdraft : a.overdraft ≤ 100000) :
    (∀ reason, accountConflict i a s = some reason →
      exec (.tableWriteAccounts q (BitVec.ofNat 8 (i.val + 1)) (accountBytes a)) s = .next (refuse q 0x71 reason s))
    ∧ (accountConflict i a s = none →
      exec (.tableWriteAccounts q (BitVec.ofNat 8 (i.val + 1)) (accountBytes a)) s
        = .next (done q 0x71 (acceptAccount i a s))) := by
  obtain ⟨hparse, hlength⟩ := account_roundTrip hnumber hallotment hoverdraft
  have hentry : entryOk 4 (BitVec.ofNat 8 (i.val + 1)).toNat = true := by
    rw [toNat_succ_byte i (Nat.le_refl _)]
    exact within_iff.2 ⟨Nat.le_add_left _ _, i.isLt⟩
  refine ⟨fun reason h => exec_tableWrite_refused (code := 4) rfl ha rfl hentry hlength ?_,
    fun h => exec_tableWrite_accepted (code := 4) rfl ha rfl hentry hlength ?_⟩
  · rw [writeEntry_accounts hparse, h]
    rfl
  · rw [writeEntry_accounts hparse, h]
    rfl

/-- Settles O19: by what the slot held and what the write puts there. -/
theorem accountsWrite : Obligations.AccountsWrite := by
  intro i a q s ha hnumber hallotment hoverdraft held c duplicate inUse stored answer
  obtain ⟨hrefused, haccepted⟩ := exec_writeAccounts (i := i) ha hnumber hallotment hoverdraft
  have hduplicate : a.number ≠ 0 ∧ heldElsewhere i a.number s = true ↔ duplicate :=
    and_congr_right fun _ => heldElsewhere_iff
  have hinUse : held.number ≠ 0 ∧ held.number ≠ a.number
      ∧ (countersInUse c || s.orders.table.any fun o => o.account == held.number) = true ↔ inUse := by
    simp only [inUse, Bool.or_eq_true, countersInUse_iff, List.any_eq_true, beq_iff_eq]
  have hfree : ¬ duplicate → ¬ inUse → accountConflict i a s = none := fun hd hu => by
    exact (if_neg fun h => hd (hduplicate.1 h)).trans (if_neg fun h => hu (hinUse.1 h))
  refine ⟨fun hd => hrefused 8 (if_pos (hduplicate.2 hd)),
    fun hd hu => hrefused 9 ((if_neg fun h => hd (hduplicate.1 h)).trans (if_pos (hinUse.2 hu))),
    fun hd hu hheld hnew => ?_, fun hd hu hnew => ?_, fun hd hu hheld hnew hne hvoid => ?_, fun hd hheld heq => ?_⟩
  · exact (haccepted (hfree hd hu)).trans (by rw [acceptAccount_new hheld hnew]; rfl)
  · exact (haccepted (hfree hd hu)).trans (by rw [acceptAccount_deleted hnew]; rfl)
  · exact (haccepted (hfree hd hu)).trans (by rw [acceptAccount_renumbered hheld hnew hne hvoid]; rfl)
  · intro ends ended limit runs
    have hlimit : classLimit a = limit := funext (classLimit_eq a)
    have hkept : answer = .next (done q 0x71 (if lowersLimit held a then allotmentAtWrite i ended else ended)) := by
      refine (haccepted (hfree hd fun hu => hu.2.1 heq)).trans ?_
      rw [acceptAccount_kept hheld heq, keepAccount, disabledBy_eq heq]
      rfl
    have htables : getAt ended.tables.accounts i = a := by
      have hsame : ended.tables = (stored a c).tables := (endTags_within _ _ _).keeps .tables (by decide)
      rw [hsame]
      exact getAt_putAt_self _ _ _
    have hmetering : getAt ended.metering.counters i = c := by
      have hsame : ended.metering = (stored a c).metering := (endTags_within _ _ _).keeps .metering (by decide)
      rw [hsame]
      exact getAt_putAt_self _ _ _
    refine ⟨fun hal hov => ?_, fun hlower => ⟨fun hbelow => ?_, fun cls hreached => ?_⟩⟩
    · rw [hkept, if_neg fun h => ?_]
      have := lowersLimit_iff.1 h
      omega
    · rw [hkept, if_pos (lowersLimit_iff.2 hlower), allotmentAtWrite_below htables hmetering (hlimit ▸ hbelow)]
    · rw [hkept, if_pos (lowersLimit_iff.2 hlower),
        allotmentAtWrite_reached htables hmetering (cls := cls) (hlimit ▸ hreached), hlimit]

end Sys2Proof.Machine

/-! PROOFS. RATING, TARIFF, LINE TIMING, SCAN and ALERT ENABLES writes (O20). -/

namespace Sys2Proof.Machine

open Sys2Proof.Safety

section

variable {q : Byte} {s : State}

/-- A TABLE WRITE whose own test is one question. -/
theorem exec_tableWrite_ite {p : Prop} [Decidable p] {c : Instr} {e : Byte} {code reason : Nat} {b : List Byte} {t : State}
    (hc : asRequest c = some (0x71, writeBody q code e b)) (ha : ActedOn 0x71 q s) (hcode : isTable code = true)
    (hentry : entryOk code e.toNat = true) (hsize : b.length = entrySize code)
    (hwrite : writeEntry code e.toNat b s = if p then .ok t else .error reason) :
    exec c s = .next (if p then done q 0x71 t else refuse q 0x71 reason s) := by
  split
  next h => exact exec_tableWrite_accepted hc ha hcode hentry hsize (by rw [hwrite, if_pos h])
  next h => exact exec_tableWrite_refused hc ha hcode hentry hsize (by rw [hwrite, if_neg h])

/-! ## RATING (R38) -/

theorem toNat_byte {n : Nat} (i : Fin n) (h : n ≤ 64) : (BitVec.ofNat 8 i.val).toNat = i.val := by
  have := i.isLt
  rw [BitVec.toNat_ofNat, Nat.mod_eq_of_lt (by omega)]

theorem ratingEntry_val (e : Fin 8) : ratingEntry e.val = e :=
  Fin.ext (Nat.mod_eq_of_lt e.isLt)

theorem exec_writeRating {e : Fin 8} {x : HalfCurve} (ha : ActedOn 0x71 q s) (hx : halfInRange x = true) :
    exec (.tableWriteRating q (BitVec.ofNat 8 e.val) (halfBytes x)) s
      = .next (if curveOrdered (curvePoints (putAt s.tables.rating e x) (Fin.ofNat 4 (e.val / 2))) then
          done q 0x71 { s with tables := { s.tables with rating := putAt s.tables.rating e x } }
        else refuse q 0x71 6 s) := by
  obtain ⟨hparse, hlength⟩ := half_roundTrip hx
  have hnumber := toNat_byte e (by decide)
  have hentry : entryOk 3 (BitVec.ofNat 8 e.val).toNat = true := by
    rw [hnumber]
    exact within_iff.2 ⟨Nat.zero_le _, Nat.le_of_lt_succ e.isLt⟩
  have hwrite : writeEntry 3 (BitVec.ofNat 8 e.val).toNat (halfBytes x) s
      = if curveOrdered (curvePoints (putAt s.tables.rating e x) (Fin.ofNat 4 (e.val / 2))) then
          .ok { s with tables := { s.tables with rating := putAt s.tables.rating e x } }
        else .error 6 := by
    rw [hnumber]
    show writeRating _ _ s = _
    unfold writeRating
    rw [hparse, ratingEntry_val]
  exact exec_tableWrite_ite (code := 3) rfl ha rfl hentry hlength hwrite

/-- The curve of an entry is its pair of halves. -/
theorem curvePoints_pair (r : Vector HalfCurve 8) (e : Fin 8) :
    curvePoints r (Fin.ofNat 4 (e.val / 2)) = halfPoints (getAt r (Fin.ofNat 8 (e.val / 2 * 2)))
      ++ halfPoints (getAt r (Fin.ofNat 8 (e.val / 2 * 2 + 1))) := by
  have he := e.isLt
  have hlow : (Fin.ofNat 8 (e.val / 2 * 2)) = ⟨2 * (Fin.ofNat 4 (e.val / 2)).val, by omega⟩ := by
    apply Fin.ext
    simp [Fin.ofNat]
    omega
  have hhigh : (Fin.ofNat 8 (e.val / 2 * 2 + 1)) = ⟨2 * (Fin.ofNat 4 (e.val / 2)).val + 1, by omega⟩ := by
    apply Fin.ext
    simp [Fin.ofNat]
    omega
  rw [hlow, hhigh, curvePoints]

/-! ## TARIFF (R41) -/

theorem thresholdsOrdered_iff {x : TariffEntry} :
    thresholdsOrdered x = true ↔ x.threshold2 ≤ x.threshold3 ∧ x.threshold3 ≤ x.threshold4 := by
  simp [thresholdsOrdered]

theorem exec_writeTariff {k : Fin 4} {x : TariffEntry} (ha : ActedOn 0x71 q s) (hx : tariffInRange x = true) :
    exec (.tableWriteTariff q (BitVec.ofNat 8 k.val) (tariffBytes x)) s
      = .next (if thresholdsOrdered x then done q 0x71 { s with billing := writeTariffEntry k x s.billing }
        else refuse q 0x71 7 s) := by
  obtain ⟨hparse, hlength⟩ := tariff_roundTrip hx
  have hnumber := toNat_byte k (by decide)
  have hentry : entryOk 5 (BitVec.ofNat 8 k.val).toNat = true := by
    rw [hnumber]
    exact within_iff.2 ⟨Nat.zero_le _, Nat.le_of_lt_succ k.isLt⟩
  have hwrite : writeEntry 5 (BitVec.ofNat 8 k.val).toNat (tariffBytes x) s
      = if thresholdsOrdered x then .ok { s with billing := writeTariffEntry k x s.billing } else .error 7 := by
    have hslot : Fin.ofNat 4 k.val = k := Fin.ext (Nat.mod_eq_of_lt k.isLt)
    rw [hnumber]
    show writeTariff _ _ s = _
    unfold writeTariff
    rw [hparse, hslot]
  exact exec_tableWrite_ite (code := 5) rfl ha rfl hentry hlength hwrite

theorem writeTariffEntry_open {k : Fin 4} {x : TariffEntry} {b : Billing} (h : b.lock = false) :
    writeTariffEntry k x b = { b with active := putAt b.active k x } :=
  if_neg (by rw [h]; exact Bool.false_ne_true)

theorem writeTariffEntry_staged {k : Fin 4} {x : TariffEntry} {y : Staged} {b : Billing} (h : b.lock = true)
    (hy : b.staged = some y) :
    writeTariffEntry k x b = { b with staged := some { y with entries := putAt y.entries k x } } := by
  unfold writeTariffEntry
  rw [if_pos h, hy]

theorem writeTariffEntry_unstaged {k : Fin 4} {x : TariffEntry} {b : Billing} (h : b.lock = true)
    (hy : b.staged = none) :
    writeTariffEntry k x b = { b with staged := some ⟨putAt b.active k x, b.edition⟩ } := by
  unfold writeTariffEntry
  rw [if_pos h, hy]

/-! ## LINE TIMING (R4, R42) -/

theorem exec_writeTiming {x : LineTiming} (ha : ActedOn 0x71 q s) (hx : timingInRange x = true) :
    exec (.tableWriteLineTiming q 0 (timingBytes x)) s
      = .next (if timingApart x then done q 0x71 (acceptTiming x s) else refuse q 0x71 5 s) := by
  obtain ⟨hparse, hlength⟩ := timing_roundTrip hx
  have hwrite : writeEntry 6 (0 : Byte).toNat (timingBytes x) s
      = if timingApart x then .ok (acceptTiming x s) else .error 5 := by
    show writeTiming _ s = _
    unfold writeTiming
    rw [hparse]
  exact exec_tableWrite_ite (code := 6) rfl ha rfl rfl hlength hwrite

/-- A quiet port's end gap stands to be raised: the quiet time counted has reached it. -/
def gapStands (p : Port) (s : State) : Prop :=
  (unitAt p s).active = false ∧ (unitAt p s).inFlight = none ∧ (unitAt p s).gapRaised = false
    ∧ s.tables.timing.endGap ≤ (unitAt p s).counter

theorem retimePort_stands {p : Port} (hrun : Runs s) (h : gapStands p s) : exec (.endGap p) s = .next (retimePort p s) := by
  obtain ⟨hactive, hflight, hraised, hgap⟩ := h
  have hmax : max (unitAt p s).counter (min 0 counterTop) = (unitAt p s).counter :=
    max_eq_left ((min_le_left _ _).trans (Nat.zero_le _))
  rw [exec_endGap_stands hrun hactive hflight hraised hgap, retimePort, if_pos (isQuiet_of hactive hflight), quietReaches]
  rw [hmax, hraised, if_pos (by simp [hgap]), mapUnit_eq_self rfl]

theorem retimePort_still {p : Port} (h : ¬ gapStands p s) : retimePort p s = s := by
  unfold retimePort
  split
  next hquiet =>
    simp only [isQuiet, transmitting, Bool.and_eq_true, Bool.not_eq_true', Option.isSome_eq_false_iff,
      Option.isNone_iff_eq_none] at hquiet
    obtain ⟨hactive, hflight⟩ := hquiet
    have hmax : max (unitAt p s).counter (min 0 65535) = (unitAt p s).counter :=
      max_eq_left ((min_le_left _ _).trans (Nat.zero_le _))
    rw [quietReaches_counts, hmax, mapUnit_eq_self rfl]
    cases hraised : (unitAt p s).gapRaised with
    | true => exact .inl rfl
    | false =>
      refine .inr ?_
      rw [hmax]
      exact Nat.lt_of_not_le fun hgap => h ⟨hactive, hflight, hraised, hgap⟩
  · rfl

/-- The state after the retiming of a port is the one the end gap leaves, where it stands. -/
theorem retimePort_eq {p : Port} {y : State} (hrun : Runs s) (hstands : gapStands p s → exec (.endGap p) s = .next y)
    (hstill : ¬ gapStands p s → y = s) : y = retimePort p s := by
  by_cases h : gapStands p s
  · exact Host.Outcome.next.inj ((hstands h).symm.trans (retimePort_stands hrun h))
  · rw [hstill h, retimePort_still h]

end

/-- Settles O20: each table's write by its one test. -/
theorem otherTableWrites : Obligations.OtherTableWrites := by
  intro q s ha
  refine ⟨fun e x hx => ?_, fun k x hx => ?_, fun x hx => ?_, fun x hx => ?_, fun x => ?_⟩
  · intro rating low high points ordered answer
    have hanswer := exec_writeRating (e := e) ha hx
    have hordered : curveOrdered (curvePoints rating (Fin.ofNat 4 (e.val / 2))) = true ↔ ordered := by
      rw [curvePoints_pair, curveOrdered_iff]
      rfl
    exact ⟨fun h => hanswer.trans (by rw [if_pos (hordered.2 h)]),
      fun h => hanswer.trans (by rw [if_neg fun hc => h (hordered.1 hc)])⟩
  · intro answer
    have hanswer := exec_writeTariff (k := k) ha hx
    refine ⟨fun h => hanswer.trans ?_, fun h h' => ?_⟩
    · rw [if_neg fun hc => ?_]
      have := thresholdsOrdered_iff.1 hc
      omega
    · rw [if_pos (thresholdsOrdered_iff.2 ⟨h, h'⟩)] at hanswer
      exact ⟨fun hlock => hanswer.trans (by rw [writeTariffEntry_open hlock]),
        fun y hlock hy => hanswer.trans (by rw [writeTariffEntry_staged hlock hy]),
        fun hlock hy => hanswer.trans (by rw [writeTariffEntry_unstaged hlock hy])⟩
  · intro answer apart
    have hanswer := exec_writeTiming ha hx
    have hapart := timingApart_iff hx
    refine ⟨fun h => hanswer.trans (by rw [if_neg fun hc => h (hapart.1 hc)]), fun h hstill => ?_, fun h => ?_⟩
    · rw [if_pos (hapart.2 h), acceptTiming] at hanswer
      have hnone : ∀ p, ¬ gapStands p { s with tables := { s.tables with timing := x } } := by
        rintro p ⟨hactive, hflight, hraised, -⟩
        obtain hp | hp | hp := hstill p
        · exact Bool.false_ne_true (hactive.symm.trans hp)
        · exact Option.isSome_iff_ne_none.1 hp hflight
        · exact Bool.false_ne_true (hraised.symm.trans hp)
      rw [retimePort_still (hnone .u), retimePort_still (hnone .d)] at hanswer
      exact hanswer
    · intro written reached y z hu hu' hd hd'
      have hrun : Runs written := ha.1
      have hy : y = retimePort .u written := retimePort_eq hrun hu hu'
      have hkeeps : Keeps [.comms] written y := hy ▸ retimePort_keeps .u written
      have htables : y.tables = written.tables := hkeeps.keeps .tables (by decide)
      have hruny : Runs y :=
        (isRunning_of_eq (congrArg Supply.status (hkeeps.keeps .supply (by decide))) (hkeeps.keeps .loading (by decide))).trans
          hrun
      have hreached : gapStands .d y ↔ reached .d y := by
        unfold gapStands
        rw [htables]
      have hz : z = retimePort .d y := retimePort_eq hruny (fun h => hd (hreached.1 h)) fun h => hd' fun hr => h (hreached.2 hr)
      rw [hz, hy]
      exact hanswer.trans (by rw [if_pos (hapart.2 h)]; rfl)
  · obtain ⟨hparse, hlength⟩ := scan_roundTrip hx
    refine exec_tableWrite_accepted (e := 0) (code := 7) rfl ha rfl rfl hlength ?_
    show writeScan _ s = _
    rw [writeScan, hparse]
  · obtain ⟨hparse, hlength⟩ := enables_roundTrip x
    refine exec_tableWrite_accepted (e := 0) (code := 8) rfl ha rfl rfl hlength ?_
    show Except.ok (writeEnables _ s) = _
    rw [writeEnables, hparse]

end Sys2Proof.Machine

/-! PROOFS. TABLE READ (O21). -/

namespace Sys2Proof.Machine

open Sys2Proof.Safety

/-! ## Records as bytes -/

theorem gateBytes_eq (g : GateRec) : gateBytes g =
    be 1 (match g.state with | .closed => 0 | .moving => 1 | .opened => 2 | .fault _ => 3) ++ be 2 g.commanded
      ++ be 2 g.reported ++ be 1 (if g.ready = true then 1 else 0) ++ be 3 g.lastCommand
      ++ be 1 (match g.state with | .fault .silent => 1 | .fault .stuck => 2 | .fault .lockedOut => 3 | _ => 0)
      ++ be 2 (match g.runOut with | none => 0 | some account => account) := by
  have hrunOut : g.runOut.getD 0 = match g.runOut with | none => 0 | some account => account := by
    cases g.runOut <;> rfl
  have hfault : faultCode g.state
      = match g.state with | .fault .silent => 1 | .fault .stuck => 2 | .fault .lockedOut => 3 | _ => 0 := by
    cases g.state with
    | closed => rfl
    | moving => rfl
    | opened => rfl
    | fault cause => cases cause <;> rfl
  have hstate : gateStateCode g.state = match g.state with | .closed => 0 | .moving => 1 | .opened => 2 | .fault _ => 3 := by
    cases g.state <;> rfl
  rw [gateBytes, hrunOut, hfault, hstate]
  rfl

theorem stationBytes_eq (r : StationRec) : stationBytes r =
    be 1 (match r.state with | .new => 0 | .live => 1 | .lost => 2) ++ be 1 r.misses ++ be 2 r.rate ++ be 4 r.ref
      ++ be 3 r.unmetered ++ be 1 r.carry := by
  have hstate : stationStateCode r.state = match r.state with | .new => 0 | .live => 1 | .lost => 2 := by
    cases r.state <;> rfl
  rw [stationBytes, hstate]

/-! ## A TABLE READ's tests -/

section

variable {q c e x : Byte} {s : State}

theorem exec_tableRead {body : List Byte} (ha : ActedOn 0x72 q s) (hq : requestNumber body = q) :
    exec (.tableRead body) s = .next (actTableRead body s) := by
  subst hq
  exact exec_request_acted (c := .tableRead body) rfl ha

theorem tryRead_bytes (q c e x : Byte) (s : State) :
    tryRead [q, c, e, x] s = if isTable c.toNat = false then .error 2
      else if readEntryOk c.toNat e.toNat = false then .error 3 else readEntry c.toNat e.toNat x.toNat s := by
  have hfield : field [q, c, e, x] 1 1 = c.toNat ∧ field [q, c, e, x] 2 1 = e.toNat ∧ field [q, c, e, x] 3 1 = x.toNat := by
    simp [field, beVal]
  obtain ⟨hcode, hentry, hselector⟩ := hfield
  unfold tryRead
  rw [hcode, hentry, hselector]
  rfl

theorem exec_tableRead_refused {body : List Byte} {reason : Nat} (ha : ActedOn 0x72 q s) (hq : requestNumber body = q)
    (h : tryRead body s = .error reason) : exec (.tableRead body) s = .next (refuse q 0x72 reason s) := by
  rw [exec_tableRead ha hq, actTableRead, h, hq]

/-- A TABLE READ of a table and an entry that stand is answered by what the selector names. -/
theorem exec_tableRead_entry (ha : ActedOn 0x72 q s) (hc : isTable c.toNat = true)
    (he : readEntryOk c.toNat e.toNat = true) :
    (∀ content, readEntry c.toNat e.toNat x.toNat s = .ok content →
      exec (.tableRead [q, c, e, x]) s = .next (answer q 0x72 0x73 ([q, c, e, x] ++ content) s))
    ∧ ∀ reason, readEntry c.toNat e.toNat x.toNat s = .error reason →
      exec (.tableRead [q, c, e, x]) s = .next (refuse q 0x72 reason s) := by
  have htests : tryRead [q, c, e, x] s = readEntry c.toNat e.toNat x.toNat s := by
    rw [tryRead_bytes, if_neg (by rw [hc]; decide), if_neg (by rw [he]; decide)]
  refine ⟨fun content h => ?_, fun reason h => exec_tableRead_refused ha rfl (htests.trans h)⟩
  rw [exec_tableRead (body := [q, c, e, x]) ha rfl, actTableRead, htests, h]
  rfl

/-! ## Selectors beyond a table's -/

theorem readReachTable_beyond {n : Nat} (h : 2 < n) : readReachTable n s = .error 3 := by
  unfold readReachTable
  split <;> first | omega | rfl

theorem readTurnoutTable_beyond {n : Nat} (t : Turnout) (h : 3 < n) : readTurnoutTable t n s = .error 3 := by
  unfold readTurnoutTable
  split <;> first | omega | rfl

theorem readAccountTable_beyond {n : Nat} (i : Fin 64) (h : 2 < n) : readAccountTable i n s = .error 3 := by
  unfold readAccountTable
  split <;> first | omega | rfl

theorem readTariffTable_beyond {n : Nat} (k : Fin 4) (h : 1 < n) : readTariffTable k n s = .error 3 := by
  unfold readTariffTable
  split <;> first | omega | rfl

theorem onlySelector0_beyond {n : Nat} (b : List Byte) (h : 0 < n) : onlySelector0 n b = .error 3 :=
  if_neg (by omega)

/-- The entry numbers that a TABLE READ takes, table by table. -/
theorem readEntryOk_iff {code entry : Nat} (h : 1 ≤ code) (h' : code ≤ 8) :
    readEntryOk code entry = true ↔ [0, 1, 0, 1, 0, 0, 0, 0].getD (code - 1) 0 ≤ entry
      ∧ entry ≤ [0, 16, 7, 64, 3, 0, 18, 0].getD (code - 1) 0 := by
  obtain rfl | rfl | rfl | rfl | rfl | rfl | rfl | rfl :
      code = 1 ∨ code = 2 ∨ code = 3 ∨ code = 4 ∨ code = 5 ∨ code = 6 ∨ code = 7 ∨ code = 8 := by omega
  all_goals simp [readEntryOk, entryOk, within]

theorem readEntry_two (entry n : Nat) :
    readEntry 2 entry n s = (turnoutOf entry).elim (.error 3) fun t => readTurnoutTable t n s := by
  unfold readEntry
  cases turnoutOf entry <;> rfl

theorem readEntry_beyond {code entry n : Nat} (h : 1 ≤ code) (h' : code ≤ 8)
    (hn : [2, 3, 0, 2, 1, 0, 0, 0].getD (code - 1) 0 < n) : readEntry code entry n s = .error 3 := by
  obtain rfl | rfl | rfl | rfl | rfl | rfl | rfl | rfl :
      code = 1 ∨ code = 2 ∨ code = 3 ∨ code = 4 ∨ code = 5 ∨ code = 6 ∨ code = 7 ∨ code = 8 := by omega
  case inr.inl =>
    rw [readEntry_two]
    cases turnoutOf entry with
    | none => rfl
    | some t => exact readTurnoutTable_beyond t hn
  · exact readReachTable_beyond hn
  · exact onlySelector0_beyond _ hn
  · exact readAccountTable_beyond _ hn
  · exact readTariffTable_beyond _ hn
  · exact onlySelector0_beyond _ hn
  · exact onlySelector0_beyond _ hn
  · exact onlySelector0_beyond _ hn

end

theorem readEntry_turnout (t : Turnout) (n : Nat) (s : State) : readEntry 2 (t.val + 1) n s = readTurnoutTable t n s := by
  rw [readEntry_two, turnoutOf_succ]
  rfl

theorem readEntry_reachRecord {r : PeriodRecord} {s : State} (h : s.metering.record = some r) :
    readEntry 1 0 2 s = .ok (be 2 r.period ++ be 4 r.inflow ++ be 4 r.outflow) := by
  show readReachTable 2 s = _
  simp only [readReachTable, h]

theorem readEntry_noReachRecord {s : State} (h : s.metering.record = none) : readEntry 1 0 2 s = .error 14 := by
  show readReachTable 2 s = _
  simp only [readReachTable, h]

theorem readTurnoutTable_period {t : Turnout} {s : State} {x : PeriodEntry} (h : periodEntryOf t s = some x) :
    readTurnoutTable t 3 s = .ok (be 4 x.total ++ be 4 x.unordered ++ be 4 x.unmetered) := by
  simp only [readTurnoutTable, h]

theorem readTurnoutTable_noPeriod {t : Turnout} {s : State} (h : periodEntryOf t s = none) :
    readTurnoutTable t 3 s = .error 14 := by
  simp only [readTurnoutTable, h]

theorem readTariffTable_staged {k : Fin 4} {s : State} {y : Staged} (h : s.billing.staged = some y) :
    readTariffTable k 1 s = .ok (tariffBytes (getAt y.entries k)) := by
  simp only [readTariffTable, h]

theorem readTariffTable_unstaged {k : Fin 4} {s : State} (h : s.billing.staged = none) :
    readTariffTable k 1 s = .error 14 := by
  simp only [readTariffTable, h]

/-- Settles O21: each table's entries and selectors, and the tests before them. -/
theorem tableReadAnswers : Obligations.TableReadAnswers := by
  refine ⟨⟨fun _ => rfl, gateBytes_eq, stationBytes_eq, fun _ => ⟨rfl, rfl⟩⟩, fun q code entry selector s ha => ?_⟩
  intro read data no
  have hentry : ∀ c e x : Byte, 1 ≤ c.toNat → c.toNat ≤ 8 → readEntryOk c.toNat e.toNat = true →
      (∀ content, readEntry c.toNat e.toNat x.toNat s = .ok content →
        exec (.tableRead [q, c, e, x]) s = .next (answer q 0x72 0x73 ([q, c, e, x] ++ content) s))
      ∧ ∀ reason, readEntry c.toNat e.toNat x.toNat s = .error reason →
        exec (.tableRead [q, c, e, x]) s = .next (refuse q 0x72 reason s) := fun c e x h h' he =>
    exec_tableRead_entry ha (within_iff.2 ⟨h, h'⟩) he
  have hreach := fun x => hentry 1 0 x (by decide) (by decide) rfl
  have hturnout := fun (t : Turnout) (x : Byte) => hentry 2 (BitVec.ofNat 8 (t.val + 1)) x (by decide) (by decide)
    (by rw [toNat_succ_byte t (by decide)]; exact within_iff (hi := 16).2 ⟨Nat.le_add_left 1 _, t.isLt⟩)
  have hturnoutRead : ∀ (t : Turnout) (n : Nat),
      readEntry (2 : Byte).toNat (BitVec.ofNat 8 (t.val + 1)).toNat n s = readTurnoutTable t n s := fun t n => by
    rw [toNat_succ_byte t (by decide)]
    exact readEntry_turnout t n s
  have hrating := fun (e : Fin 8) => hentry 3 (BitVec.ofNat 8 e.val) 0 (by decide) (by decide)
    (by rw [toNat_byte e (by decide)]; exact within_iff.2 ⟨Nat.zero_le _, Nat.le_of_lt_succ e.isLt⟩)
  have haccount := fun (i : Fin 64) (x : Byte) => hentry 4 (BitVec.ofNat 8 (i.val + 1)) x (by decide) (by decide)
    (by rw [toNat_succ_byte i (by decide)]; exact within_iff (hi := 64).2 ⟨Nat.le_add_left 1 _, i.isLt⟩)
  have haccountRead : ∀ (i : Fin 64) (n : Nat),
      readEntry (4 : Byte).toNat (BitVec.ofNat 8 (i.val + 1)).toNat n s = readAccountTable i n s := fun i n => by
    rw [toNat_succ_byte i (by decide)]
    exact congrArg (readAccountTable · n s) (slotOf_succ i)
  have htariff := fun (k : Fin 4) (x : Byte) => hentry 5 (BitVec.ofNat 8 k.val) x (by decide) (by decide)
    (by rw [toNat_byte k (by decide)]; exact within_iff.2 ⟨Nat.zero_le _, Nat.le_of_lt_succ k.isLt⟩)
  have htariffRead : ∀ (k : Fin 4) (n : Nat),
      readEntry (5 : Byte).toNat (BitVec.ofNat 8 k.val).toNat n s = readTariffTable k n s := fun k n => by
    rw [toNat_byte k (by decide)]
    exact congrArg (readTariffTable · n s) (Fin.ext (Nat.mod_eq_of_lt k.isLt))
  have hstation := fun (x : Station) => hentry 7 (BitVec.ofNat 8 (x.val + 1)) 0 (by decide) (by decide)
    (by rw [toNat_succ_byte x (by decide)]; exact within_iff.2 ⟨Nat.zero_le _, x.isLt⟩)
  refine ⟨(hreach 0).1 _ rfl, (hreach 1).1 _ rfl, fun h => (hreach 2).2 14 (readEntry_noReachRecord h),
    fun r h => (hreach 2).1 _ (readEntry_reachRecord h), fun t => ⟨(hturnout t 0).1 _ (hturnoutRead t 0),
      (hturnout t 1).1 _ (hturnoutRead t 1), (hturnout t 2).1 _ (hturnoutRead t 2), fun h => ?_, fun x h => ?_⟩,
    fun e => (hrating e).1 _ ?_, fun i => ⟨(haccount i 0).1 _ (haccountRead i 0), (haccount i 1).1 _ (haccountRead i 1),
      (haccount i 2).1 _ (haccountRead i 2)⟩, fun k => ⟨(htariff k 0).1 _ (htariffRead k 0), fun h => ?_, fun y h => ?_⟩,
    (hentry 6 0 0 (by decide) (by decide) rfl).1 _ rfl, (hentry 7 0 0 (by decide) (by decide) rfl).1 _ rfl,
    fun x => (hstation x).1 _ ?_, (hentry 8 0 0 (by decide) (by decide) rfl).1 _ rfl,
    fun body hq hlength => ?_, fun hcode => ?_, fun h h' hbeyond => ?_⟩
  · exact (hturnout t 3).2 14 ((hturnoutRead t 3).trans (readTurnoutTable_noPeriod h))
  · exact (hturnout t 3).1 _ ((hturnoutRead t 3).trans (readTurnoutTable_period h))
  · rw [toNat_byte e (by decide)]
    exact congrArg (fun i => Except.ok (halfBytes (getAt s.tables.rating i))) (ratingEntry_val e)
  · exact (htariff k 1).2 14 ((htariffRead k 1).trans (readTariffTable_unstaged h))
  · exact (htariff k 1).1 _ ((htariffRead k 1).trans (readTariffTable_staged h))
  · rw [toNat_succ_byte x (by decide)]
    show Except.ok (readScanTable (x.val + 1) s) = _
    rw [readScanTable, stationOf_succ]
  · exact exec_tableRead_refused ha hq (if_pos hlength)
  · refine exec_tableRead_refused ha rfl ?_
    rw [tryRead_bytes, if_pos]
    rw [← Bool.not_eq_true, isTable, within_iff]
    obtain rfl | hcode := hcode
    · decide
    · omega
  · cases hok : readEntryOk code.toNat entry.toNat with
    | false =>
      refine exec_tableRead_refused ha rfl ?_
      rw [tryRead_bytes, if_neg (by rw [show isTable code.toNat = true from within_iff.2 ⟨h, h'⟩]; decide), if_pos hok]
    | true =>
      have hin := (readEntryOk_iff h h').1 hok
      exact (hentry code entry selector h h' hok).2 3 (readEntry_beyond h h' (by omega))

end Sys2Proof.Machine

/-! PROOFS. STATUS READ and ORDER READ (O22). -/

namespace Sys2Proof.Machine

open Sys2Proof.Safety

/-! ## STATUS READ (R45) -/

section

variable {q : Byte} {s : State}

/-- A STATUS READ is acted on in every management state. -/
theorem exec_statusRead {body : List Byte} (hrun : Runs s)
    (hnew : ∀ r, s.mgmt.lastReply = some r → ¬ (r.request = q ∧ r.kind = 0x75)) (hq : requestNumber body = q) :
    exec (.statusRead body) s = .next (actStatusRead body s) := by
  subst hq
  rw [exec_request_runs (c := .statusRead body) rfl hrun, takeRequest, repeatOf_none hnew]
  exact congrArg _ (if_neg fun h => h.2 rfl)

theorem exec_statusRead_part {part : Byte} (hrun : Runs s)
    (hnew : ∀ r, s.mgmt.lastReply = some r → ¬ (r.request = q ∧ r.kind = 0x75)) :
    exec (.statusRead [q, part]) s = .next ((statusPart part.toNat s).elim (refuse q 0x75 3 s) fun content =>
      answer q 0x75 0x76 ([q, part] ++ content) s) := by
  have hpart : field [q, part] 1 1 = part.toNat := by simp [field, beVal]
  rw [exec_statusRead (body := [q, part]) hrun hnew rfl, actStatusRead, if_neg (by simp), hpart]
  cases statusPart part.toNat s <;> rfl

end

theorem frostBytes_eq (w : Option FrostWindow) :
    frostBytes w = match w with | none => [0, 0, 0, 0, 0, 0, 0] | some w => [1] ++ be 3 w.start ++ be 3 w.stop := by
  cases w <;> rfl

theorem curtailCode_eq (x : Option Nat) : x.getD 65535 = match x with | none => 65535 | some limit => limit := by
  cases x <;> rfl

theorem supplyCode_eq (x : SupplyStatus) : supplyCode x = if x = .low then 1 else 0 := by
  cases x <;> rfl

theorem lockCode_eq (b : Billing) :
    lockCode b = match b.lock, b.staged with | false, _ => 0 | true, none => 1 | true, some _ => 2 := by
  cases hlock : b.lock <;> cases hstaged : b.staged <;> simp [lockCode, hlock, hstaged]

theorem storeCode_eq (s : State) :
    storeCode s = if s.store.op = none ∧ wiping s = false then 0 else if s.store.waiting = true then 2 else 1 := by
  unfold storeCode storeBusy
  cases hop : s.store.op <;> cases hwiping : wiping s <;> simp

theorem isEmpty_flag (l : List Nat) : flagByte (!l.isEmpty) = be 1 (if l = [] then 0 else 1) := by
  cases l <;> rfl

theorem statusPart0_length (s : State) : (statusPart0 s).length = 28 := by
  cases hfrost : s.clock.frost <;> simp [statusPart0, restartBytes, frostBytes, flagByte, hfrost]

/-! ## ORDER READ (R46) -/

section

variable {q x v : Byte} {s : State}

theorem exec_orderRead {body : List Byte} (ha : ActedOn 0x7A q s) (hq : requestNumber body = q) :
    exec (.orderRead body) s = .next (actOrderRead body s) := by
  subst hq
  exact exec_request_acted (c := .orderRead body) rfl ha

theorem exec_orderRead_malformed {body : List Byte} (ha : ActedOn 0x7A q s) (hq : requestNumber body = q)
    (h : body.length ≠ 3 ∨ 2 < field body 1 1) : exec (.orderRead body) s = .next (refuse q 0x7A 1 s) := by
  rw [exec_orderRead ha hq, actOrderRead, if_pos h, hq]

theorem orderRead_fields : field [q, x, v] 1 1 = x.toNat ∧ field [q, x, v] 2 1 = v.toNat := by
  simp [field, beVal]

/-- An ORDER READ is answered by the record that its selector and value name. -/
theorem exec_orderRead_record (ha : ActedOn 0x7A q s) (hx : x.toNat ≤ 2) :
    (∀ content draws, recordBytes x.toNat v.toNat s = some (content, draws) →
      exec (.orderRead [q, x, v]) s
        = .next (answer q 0x7A 0x7B ([q, x, v] ++ content) { s with free := s.free + draws }))
    ∧ (recordBytes x.toNat v.toNat s = none → exec (.orderRead [q, x, v]) s = .next (refuse q 0x7A 15 s)) := by
  obtain ⟨hselector, hvalue⟩ := orderRead_fields (q := q) (x := x) (v := v)
  have hexec := exec_orderRead (body := [q, x, v]) ha rfl
  have hwell : ¬ ([q, x, v].length ≠ 3 ∨ 2 < field [q, x, v] 1 1) := by
    rw [hselector]
    simp
    omega
  rw [actOrderRead, if_neg hwell, hselector, hvalue] at hexec
  exact ⟨fun content draws h => by rw [hexec, h]; rfl, fun h => by rw [hexec, h]; rfl⟩

end

theorem wideBytes_fits {k n : Nat} (draw : Nat) (h : n < 256 ^ k) : wideBytes k n draw = be k n := if_pos h

/-- A record whose wide fields fit them draws nothing, and each field is sent as its number. -/
theorem orderBytes_fits {o : OrderRec} (draw : Nat)
    (h : ∀ k delivered charge, o.state = .running k delivered charge →
      delivered < 4294967296 ∧ charge < 281474976710656) :
    orderDraws o = 0 ∧ orderBytes draw o = be 1 o.tag ++ be 1 o.terminal ++ be 1 (o.turnout.val + 1)
      ++ be 1 (match o.cls with | .normal => 0 | .frost => 1)
      ++ be 1 (match o.state with | .provisional _ => 0 | .confirmed _ => 1 | .running _ _ _ => 2)
      ++ be 2 o.account ++ be 2 o.rate ++ be 3 o.start ++ be 3 o.stop
      ++ (match o.state with
          | .provisional d => be 3 d
          | .confirmed k => be 2 k
          | .running k delivered charge => be 2 k ++ be 4 delivered ++ be 6 charge) := by
  unfold orderBytes orderDraws
  cases hstate : o.state with
  | provisional d => exact ⟨rfl, rfl⟩
  | confirmed k => exact ⟨rfl, rfl⟩
  | running k delivered charge =>
    obtain ⟨hd, hc⟩ := h k delivered charge hstate
    refine ⟨if_pos ⟨hd, hc⟩, ?_⟩
    dsimp only
    rw [wideBytes_fits (k := 4) draw hd, wideBytes_fits (k := 6) (draw + 4) hc]
    rfl

theorem orderDraws_over {o : OrderRec} (h : ¬ ∀ k delivered charge, o.state = .running k delivered charge →
      delivered < 4294967296 ∧ charge < 281474976710656) : orderDraws o = 10 := by
  cases hstate : o.state with
  | provisional d => exact absurd (fun _ _ _ hr => nomatch hstate.symm.trans hr) h
  | confirmed k => exact absurd (fun _ _ _ hr => nomatch hstate.symm.trans hr) h
  | running k delivered charge =>
    unfold orderDraws
    rw [hstate]
    refine if_neg fun hfits => h fun _ _ _ hr => ?_
    obtain ⟨rfl, rfl, rfl⟩ := OrderState.running.inj (hstate.symm.trans hr)
    exact hfits

/-- Settles O22: part by part, and record by record. -/
theorem statusAndOrderReads : Obligations.StatusAndOrderReads := by
  intro q s
  refine ⟨fun hrun hnew => ?_, fun ha v => ?_⟩
  · intro part0 counters
    have hpart0 : statusPart0 s = part0 := by
      simp only [part0, statusPart0, supplyCode_eq, lockCode_eq, storeCode_eq, isEmpty_flag, frostBytes_eq, curtailCode_eq,
        restartBytes, List.append_assoc]
      rfl
    refine ⟨?_, ?_, exec_statusRead_part hrun hnew, ?_, fun part hpart => ?_, fun body hq hlength => ?_⟩
    · rw [← hpart0]
      exact exec_statusRead_part hrun hnew
    · rw [← hpart0, List.length_append, statusPart0_length]
      rfl
    · refine (exec_statusRead_part hrun hnew).trans ?_
      rw [List.append_assoc]
      rfl
    · rw [exec_statusRead_part hrun hnew]
      have hnone : statusPart part.toNat s = none := by
        unfold statusPart
        split <;> first | omega | rfl
      rw [hnone]
      rfl
    · rw [exec_statusRead hrun hnew hq, actStatusRead, if_pos hlength, hq]
  · intro data order carriage fits
    have hread := fun (x : Byte) (hx : x.toNat ≤ 2) => exec_orderRead_record (x := x) (v := v) ha hx
    have hfound : ∀ o, findTag v.toNat s.orders.table = some o →
        recordBytes 0 v.toNat s = some (orderBytes s.free o, orderDraws o) := fun o h => by
      simp only [recordBytes, h, Option.map_some]
    have hplaced : ∀ o, s.orders.table[v.toNat]? = some o →
        recordBytes 1 v.toNat s = some (orderBytes s.free o, orderDraws o) := fun o h => by
      simp only [recordBytes, h, Option.map_some]
    have hlisted : ∀ r, s.carriage.list[v.toNat]? = some r → recordBytes 2 v.toNat s = some (carriageBytes r, 0) :=
      fun r h => by simp only [recordBytes, h, Option.map_some]
    refine ⟨fun o h hf => ?_, fun o h hf => ?_, fun o => ⟨fun h hf => ?_, fun h hf => ?_⟩, fun r h => ?_, fun h => ?_,
      fun h => ?_, fun h => ?_, fun x hx => ?_, fun body hq hlength => exec_orderRead_malformed ha hq (.inl hlength)⟩
    · obtain ⟨hdraws, hbytes⟩ := orderBytes_fits s.free hf
      rw [(hread 0 (by decide)).1 _ _ (hfound o h), hdraws, hbytes]
      rfl
    · obtain ⟨hdraws, hbytes⟩ := orderBytes_fits s.free hf
      rw [(hread 1 (by decide)).1 _ _ (hplaced o h), hdraws, hbytes]
      rfl
    · rw [(hread 0 (by decide)).1 _ _ (hfound o h), orderDraws_over hf]
    · rw [(hread 1 (by decide)).1 _ _ (hplaced o h), orderDraws_over hf]
    · rw [(hread 2 (by decide)).1 _ _ (hlisted r h)]
      rfl
    · refine (hread 0 (by decide)).2 ?_
      show (findTag v.toNat s.orders.table).map _ = none
      rw [findTag_none.2 h]
      rfl
    · refine (hread 1 (by decide)).2 ?_
      show s.orders.table[v.toNat]?.map _ = none
      rw [List.getElem?_eq_none h]
      rfl
    · refine (hread 2 (by decide)).2 ?_
      show s.carriage.list[v.toNat]?.map _ = none
      rw [List.getElem?_eq_none h]
      rfl
    · refine exec_orderRead_malformed ha rfl (.inr ?_)
      rw [orderRead_fields.1]
      exact hx

end Sys2Proof.Machine

/-! PROOFS. The tests of a TABLE WRITE in their order (O16). -/

namespace Sys2Proof.Machine

open Sys2Proof.Safety

/-! ## Ranges of an entry's fields (section 2.2) -/

/-- The fields of each table's entry with a range narrower than their bytes: offset, length, lowest and highest value. -/
def tableRanges : List (List (Nat × Nat × Nat × Nat)) :=
  [[(0, 1, 0, 249), (1, 2, 0, 30000), (3, 2, 0, 6000), (5, 2, 0, 30000), (7, 2, 0, 7200), (9, 3, 0, 86400),
      (12, 2, 60, 1800), (14, 1, 0, 50), (15, 2, 60, 1800), (17, 1, 1, 20), (18, 3, 604800, 15552000), (21, 1, 0, 3)],
    [(0, 1, 0, 1), (1, 2, 10, 1000), (3, 1, 0, 3), (4, 2, 10, 600)],
    [(2, 2, 0, 6000), (6, 2, 0, 6000), (10, 2, 0, 6000), (14, 2, 0, 6000), (18, 2, 0, 6000), (22, 2, 0, 6000)],
    [(4, 3, 0, 4000000), (7, 1, 0, 1), (8, 1, 0, 3), (9, 1, 0, 1), (10, 3, 0, 100000)],
    [(0, 3, 0, 4000000), (3, 3, 0, 4000000), (6, 3, 0, 4000000), (9, 3, 0, 10000000), (12, 3, 0, 10000000),
      (15, 3, 0, 10000000), (18, 3, 0, 10000000), (21, 3, 0, 10000000), (24, 3, 0, 10000000), (27, 3, 0, 10000000)],
    [(0, 2, 1, 4095), (2, 2, 1, 4095), (4, 2, 1, 4095), (6, 2, 1, 4095), (8, 2, 1, 4095), (10, 2, 1, 4095),
      (12, 2, 1, 4095), (14, 2, 1, 4095), (16, 2, 250, 4095), (18, 1, 1, 30), (19, 2, 100, 5000)],
    [(0, 2, 10, 600), (2, 1, 9, 16), (3, 1, 0, 3), (4, 1, 0, 1), (5, 1, 0, 1)],
    []]

/-- Every named field of an entry lies within its range. -/
def inRanges (b : List Byte) (ranges : List (Nat × Nat × Nat × Nat)) : Prop :=
  ∀ x ∈ ranges, x.2.2.1 ≤ field b x.1 x.2.1 ∧ field b x.1 x.2.1 ≤ x.2.2.2

/-- The lower bound of each LINE TIMING window is not above its upper one (R42). -/
def windowsRise (b : List Byte) : Prop :=
  field b 0 2 ≤ field b 2 2 ∧ field b 4 2 ≤ field b 6 2 ∧ field b 8 2 ≤ field b 10 2 ∧ field b 12 2 ≤ field b 14 2

/-- An entry's write is refused for a range exactly where its fields fail `ok`, and else for a reason of its table. -/
def RangeTested (ok : Prop) (w : Except Nat State) : Prop :=
  (¬ ok → w = .error 4) ∧ (ok → ∀ reason, w = .error reason → 5 ≤ reason ∧ reason ≤ 13)

theorem rangeTested_parsed {α : Type} {ok : Prop} {p : Option α} {w : Except Nat State} (hok : ok ↔ p.isSome = true)
    (hnone : p = none → w = .error 4)
    (hsome : ∀ x, p = some x → ∀ reason, w = .error reason → 5 ≤ reason ∧ reason ≤ 13) : RangeTested ok w := by
  cases hp : p with
  | none => exact ⟨fun _ => hnone hp, fun h => by simp [hok, hp] at h⟩
  | some x => exact ⟨fun h => absurd (hok.2 (by rw [hp]; rfl)) h, fun _ => hsome x hp⟩

theorem ite_some_isSome {α : Type} {c : Bool} {x : α} : (if c = true then some x else none).isSome = true ↔ c = true := by
  cases c <;> simp

section

variable {b : List Byte}

theorem reach_inRanges : inRanges b (tableRanges.getD 0 []) ↔ (parseReach b).isSome = true := by
  rw [parseReach, ite_some_isSome]
  simp [inRanges, tableRanges, reachInRange, readReach, within_iff, and_assoc]

theorem turnout_inRanges : inRanges b (tableRanges.getD 1 []) ↔ (parseTurnout b).isSome = true := by
  rw [parseTurnout, ite_some_isSome]
  simp [inRanges, tableRanges, turnoutInRange, readTurnout, isFlag, within_iff, and_assoc]

theorem half_inRanges : inRanges b (tableRanges.getD 2 []) ↔ (parseHalf b).isSome = true := by
  have hhead : ∀ off, field b off 2 ≤ 65535 := fun off => Nat.le_of_lt_succ (field_lt b off 2)
  rw [parseHalf, ite_some_isSome]
  simp [hhead, inRanges, tableRanges, halfInRange, readHalf, readPoint, halfPoints, within_iff]

theorem account_inRanges : inRanges b (tableRanges.getD 3 []) ↔ (parseAccount b).isSome = true := by
  rw [parseAccount, ite_some_isSome]
  simp [inRanges, tableRanges, isFlag, within_iff, and_assoc]

theorem tariff_inRanges : inRanges b (tableRanges.getD 4 []) ↔ (parseTariff b).isSome = true := by
  rw [parseTariff, ite_some_isSome]
  simp [inRanges, tableRanges, tariffInRange, readTariff, within_iff, and_assoc]

theorem timing_inRanges : inRanges b (tableRanges.getD 5 []) ∧ windowsRise b ↔ (parseTiming b).isSome = true := by
  rw [parseTiming, ite_some_isSome]
  simp only [inRanges, tableRanges, windowsRise, timingInRange, windowInRange, readTiming, readWindow, within_iff,
    Bool.and_eq_true, List.getD_cons_succ, List.getD_cons_zero, List.forall_mem_cons]
  constructor
  · rintro ⟨⟨h0, h2, h4, h6, h8, h10, h12, h14, h16, h18, h19, -⟩, hlead, hmark, hone, hzero⟩
    exact ⟨⟨⟨⟨⟨⟨⟨⟨h0, h2⟩, decide_eq_true hlead⟩, ⟨h4, h6⟩, decide_eq_true hmark⟩, ⟨h8, h10⟩, decide_eq_true hone⟩,
      ⟨h12, h14⟩, decide_eq_true hzero⟩, h16⟩, h18⟩, h19⟩
  · rintro ⟨⟨⟨⟨⟨⟨⟨⟨h0, h2⟩, hlead⟩, ⟨h4, h6⟩, hmark⟩, ⟨h8, h10⟩, hone⟩, ⟨h12, h14⟩, hzero⟩, h16⟩, h18⟩, h19⟩
    exact ⟨⟨h0, h2, h4, h6, h8, h10, h12, h14, h16, h18, h19, fun _ h => nomatch h⟩, of_decide_eq_true hlead,
      of_decide_eq_true hmark, of_decide_eq_true hone, of_decide_eq_true hzero⟩

theorem scan_inRanges : inRanges b (tableRanges.getD 6 []) ↔ (parseScan b).isSome = true := by
  rw [parseScan, ite_some_isSome]
  simp [inRanges, tableRanges, scanInRange, readScan, isFlag, within_iff, and_assoc]

end

/-! ## Each table's write -/

section

variable {b : List Byte} {s : State}

theorem reachConflict_reason {r : ReachTable} {reason : Nat} (h : reachConflict r s = some reason) :
    5 ≤ reason ∧ reason ≤ 13 := by
  unfold reachConflict at h
  dsimp only at h
  split_ifs at h <;> cases h <;> decide

theorem writeReach_tested : RangeTested ((parseReach b).isSome = true) (writeReach b s) := by
  refine rangeTested_parsed Iff.rfl (fun h => by unfold writeReach; rw [h]) fun r h reason hw => ?_
  cases hc : reachConflict r s with
  | none => exact nomatch (writeReach_accepted h hc).symm.trans hw
  | some x => exact Except.error.inj ((writeReach_refused h hc).symm.trans hw) ▸ reachConflict_reason hc

theorem writeTurnout_tested (t : Turnout) :
    RangeTested ((parseTurnout b).isSome = true) (writeTurnout (t.val + 1) b s) := by
  refine rangeTested_parsed Iff.rfl (fun h => by simp only [writeTurnout, turnoutOf_succ, h]) fun e h reason hw => ?_
  simp only [writeTurnout, turnoutOf_succ, h] at hw
  exact nomatch hw

theorem writeRating_tested (entry : Nat) : RangeTested ((parseHalf b).isSome = true) (writeRating entry b s) := by
  refine rangeTested_parsed Iff.rfl (fun h => by simp only [writeRating, h]) fun e h reason hw => ?_
  simp only [writeRating, h] at hw
  split_ifs at hw
  cases hw
  decide

theorem accountConflict_reason {i : Fin 64} {a : AccountEntry} {reason : Nat} (h : accountConflict i a s = some reason) :
    5 ≤ reason ∧ reason ≤ 13 := by
  unfold accountConflict at h
  dsimp only at h
  split_ifs at h <;> cases h <;> decide

theorem writeAccount_tested (entry : Nat) : RangeTested ((parseAccount b).isSome = true) (writeAccount entry b s) := by
  refine rangeTested_parsed Iff.rfl (fun h => by simp only [writeAccount, h]) fun a h reason hw => ?_
  simp only [writeAccount, h] at hw
  split at hw
  next hc => exact Except.error.inj hw ▸ accountConflict_reason hc
  · exact nomatch hw

theorem writeTariff_tested (entry : Nat) : RangeTested ((parseTariff b).isSome = true) (writeTariff entry b s) := by
  refine rangeTested_parsed Iff.rfl (fun h => by simp only [writeTariff, h]) fun x h reason hw => ?_
  simp only [writeTariff, h] at hw
  split_ifs at hw
  cases hw
  decide

theorem writeTiming_tested : RangeTested ((parseTiming b).isSome = true) (writeTiming b s) := by
  refine rangeTested_parsed Iff.rfl (fun h => by simp only [writeTiming, h]) fun x h reason hw => ?_
  simp only [writeTiming, h] at hw
  split_ifs at hw
  cases hw
  decide

theorem writeScan_tested : RangeTested ((parseScan b).isSome = true) (writeScan b s) := by
  refine rangeTested_parsed Iff.rfl (fun h => by simp only [writeScan, h]) fun x h reason hw => ?_
  simp only [writeScan, h] at hw
  exact nomatch hw

end

theorem RangeTested.congr {ok ok' : Prop} {w : Except Nat State} (h : RangeTested ok w) (hiff : ok' ↔ ok) :
    RangeTested ok' w := ⟨fun hn => h.1 fun hok => hn (hiff.2 hok), fun hok => h.2 (hiff.1 hok)⟩

/-- What the range test of an entry asks, table by table. -/
def entryInRange (code : Nat) (b : List Byte) : Prop :=
  inRanges b (tableRanges.getD (code - 1) []) ∧ (code = 6 → windowsRise b)

theorem table_cases {P : Nat → Prop} {code : Nat} (h : 1 ≤ code) (h' : code ≤ 8) (h1 : P 1) (h2 : P 2) (h3 : P 3)
    (h4 : P 4) (h5 : P 5) (h6 : P 6) (h7 : P 7) (h8 : P 8) : P code := by
  obtain rfl | rfl | rfl | rfl | rfl | rfl | rfl | rfl :
      code = 1 ∨ code = 2 ∨ code = 3 ∨ code = 4 ∨ code = 5 ∨ code = 6 ∨ code = 7 ∨ code = 8 := by omega
  all_goals assumption

theorem entryInRange_iff {code : Nat} {b : List Byte} (h : code ≠ 6) :
    entryInRange code b ↔ inRanges b (tableRanges.getD (code - 1) []) :=
  and_iff_left fun h6 => absurd h6 h

theorem writeEntry_tested {code entry : Nat} (h : 1 ≤ code) (h' : code ≤ 8) (he : entryOk code entry = true) (b : List Byte)
    (s : State) : RangeTested (entryInRange code b) (writeEntry code entry b s) := by
  revert he
  refine table_cases (P := fun code => entryOk code entry = true →
    RangeTested (entryInRange code b) (writeEntry code entry b s)) h h' ?_ ?_ ?_ ?_ ?_ ?_ ?_ ?_ <;> intro he
  · exact writeReach_tested.congr ((entryInRange_iff (by decide)).trans reach_inRanges)
  · obtain ⟨hlow, hhigh⟩ := within_iff (lo := 1) (hi := 16).1 he
    obtain ⟨k, rfl⟩ : ∃ k, entry = k + 1 := ⟨entry - 1, by omega⟩
    exact (writeTurnout_tested ⟨k, hhigh⟩).congr ((entryInRange_iff (by decide)).trans turnout_inRanges)
  · exact (writeRating_tested entry).congr ((entryInRange_iff (by decide)).trans half_inRanges)
  · exact (writeAccount_tested entry).congr ((entryInRange_iff (by decide)).trans account_inRanges)
  · exact (writeTariff_tested entry).congr ((entryInRange_iff (by decide)).trans tariff_inRanges)
  · exact writeTiming_tested.congr ((and_congr_right fun _ => ⟨fun h => h rfl, fun h _ => h⟩).trans timing_inRanges)
  · exact writeScan_tested.congr ((entryInRange_iff (by decide)).trans scan_inRanges)
  · exact ⟨fun hn => absurd ⟨fun _ hx => (nomatch hx), fun h6 => absurd h6 (by decide)⟩ hn, fun _ _ hw => nomatch hw⟩

/-! ## The tests in order (R34) -/

theorem entrySize_eq {code : Nat} (h : 1 ≤ code) (h' : code ≤ 8) :
    entrySize code = [22, 6, 24, 13, 30, 21, 6, 2].getD (code - 1) 0 :=
  table_cases (P := fun code => entrySize code = [22, 6, 24, 13, 30, 21, 6, 2].getD (code - 1) 0) h h'
    rfl rfl rfl rfl rfl rfl rfl rfl

theorem entryOk_iff {code entry : Nat} (h : 1 ≤ code) (h' : code ≤ 8) :
    entryOk code entry = true ↔ [0, 1, 0, 1, 0, 0, 0, 0].getD (code - 1) 0 ≤ entry
      ∧ entry ≤ [0, 16, 7, 64, 3, 0, 0, 0].getD (code - 1) 0 := by
  refine table_cases (P := fun code => entryOk code entry = true ↔ [0, 1, 0, 1, 0, 0, 0, 0].getD (code - 1) 0 ≤ entry
      ∧ entry ≤ [0, 16, 7, 64, 3, 0, 0, 0].getD (code - 1) 0) h h' ?_ ?_ ?_ ?_ ?_ ?_ ?_ ?_
  all_goals simp [entryOk, within_iff]

theorem field_drop (b : List Byte) (k off len : Nat) : field (b.drop k) off len = field b (k + off) len := by
  rw [field, field, List.drop_drop]

/-- Settles O16: test by test, in their order. -/
theorem tableWriteIsTestedInOrder : Obligations.TableWriteIsTestedInOrder := by
  intro body s ha code entry sizes tops lows ranges value outside taken refused
  have htaken : taken = actTableWrite body s := takeRequest_acted ha rfl
  have hrefused : ∀ {reason}, tryWrite body s = .error reason → taken = refused reason := fun h => by
    rw [htaken, actTableWrite, h]
  have hwrite : tryWrite body s = if body.length < 3 ∨ (isTable code = true ∧ body.length ≠ 3 + entrySize code) then .error 1
      else if isTable code = false then .error 2
      else if entryOk code entry = false then .error 3
      else writeEntry code entry (body.drop 3) s := rfl
  refine ⟨fun c hc => exec_request_runs hc ha.1, fun h => ?_, fun h hcode => ?_, fun h h' hlength => ?_⟩
  · refine hrefused ?_
    rw [hwrite, if_pos]
    refine h.imp_right fun ⟨h, h', hsize⟩ => ⟨within_iff.2 ⟨h, h'⟩, ?_⟩
    rw [entrySize_eq h h']
    exact hsize
  · have hno : isTable code = false := by
      rw [← Bool.not_eq_true, isTable, within_iff]
      omega
    refine hrefused ?_
    rw [hwrite, if_neg (by rw [hno]; simp; omega), if_pos hno]
  · have htable : isTable code = true := within_iff.2 ⟨h, h'⟩
    have hsized : ¬ (body.length < 3 ∨ (isTable code = true ∧ body.length ≠ 3 + entrySize code)) := by
      rw [entrySize_eq h h', hlength]
      simp [sizes]
    rw [if_neg hsized, if_neg (by rw [htable]; decide)] at hwrite
    have hentry := entryOk_iff (entry := entry) h h'
    refine ⟨fun hbeyond => ?_, fun hlow hhigh => ?_⟩
    · have hno : entryOk code entry = false := by
        rw [← Bool.not_eq_true, hentry]
        exact fun hin => hbeyond.elim (Nat.not_lt.2 hin.1) (Nat.not_lt.2 hin.2)
      exact hrefused (hwrite.trans (if_pos hno))
    · have hok := hentry.2 ⟨hlow, hhigh⟩
      rw [if_neg (by rw [hok]; decide)] at hwrite
      obtain ⟨hout, hin⟩ := writeEntry_tested h h' hok (body.drop 3) s
      have houtside : outside ↔ ¬ entryInRange code (body.drop 3) := by
        simp only [entryInRange, inRanges, windowsRise, field_drop]
        rw [not_and_or, not_forall₂, Classical.not_imp]
        refine or_congr ?_ (and_congr_right fun _ => ?_)
        · refine exists_congr fun x => ?_
          rw [exists_prop, not_and_or, Nat.not_le, Nat.not_le]
          rfl
        · simp only [not_and_or, Nat.not_le]
          rfl
      exact ⟨fun ho => hrefused (hwrite.trans (hout (houtside.1 ho))), fun ho reason he =>
        ⟨(hin (not_not.1 fun hn => ho (houtside.2 hn)) reason (hwrite.symm.trans he)).1,
          (hin (not_not.1 fun hn => ho (houtside.2 hn)) reason (hwrite.symm.trans he)).2, hrefused he⟩⟩

end Sys2Proof.Machine

/-! PROOFS. The next tag and the carriage unit's capacity question (O36), and the rating curve (O49). -/

namespace Sys2Proof.Machine

open Sys2Proof.Safety

/-! ## The next tag (O36) -/

/-- The tags in the order in which they are tried after a counter. -/
def tagRing (counter : Nat) : List Nat := (List.range 255).map fun i => (counter + i) % 255 + 1

theorem tagRing_length (counter : Nat) : (tagRing counter).length = 255 := by simp [tagRing]

theorem tagRing_get {counter i : Nat} (h : i < (tagRing counter).length) :
    (tagRing counter)[i] = (counter + i) % 255 + 1 := by
  simp [tagRing]

/-- The place of a tag after a counter. -/
def ringPlace (counter tag : Nat) : Nat := (tag + 255 - counter - 1) % 255

theorem ringPlace_lt (counter tag : Nat) : ringPlace counter tag < (tagRing counter).length := by
  rw [tagRing_length]
  exact Nat.mod_lt _ (by decide)

theorem tagRing_ringPlace {counter tag : Nat} (hc : counter ≤ 255) (h : 1 ≤ tag) (h' : tag ≤ 255) :
    (tagRing counter)[ringPlace counter tag]'(ringPlace_lt _ _) = tag := by
  rw [tagRing_get, ringPlace]
  omega

theorem ringPlace_tagRing {counter i : Nat} (hc : counter ≤ 255) (h : i < 255) :
    ringPlace counter ((counter + i) % 255 + 1) = i := by
  rw [ringPlace]
  omega

/-- No free tag stands before the next one. -/
theorem nextTag_first {counter x : Nat} {table : List OrderRec} (hc : counter ≤ 255) (h : 1 ≤ x) (h' : x ≤ 255)
    (hfree : ∀ o ∈ table, o.tag ≠ x) : ringPlace counter (nextTag counter table) ≤ ringPlace counter x := by
  have hx := tagRing_ringPlace hc h h'
  have hunused : (!table.any fun o => o.tag == x) = true := by simpa using hfree
  have hnext : nextTag counter table = ((tagRing counter).find? fun t => !table.any fun o => o.tag == t).getD 1 := rfl
  cases hfind : (tagRing counter).find? fun t => !table.any fun o => o.tag == t with
  | none =>
    have hused := List.find?_eq_none.1 hfind x (hx ▸ List.getElem_mem _)
    exact absurd hunused hused
  | some t =>
    obtain ⟨-, i, hi, ht, hbefore⟩ := List.find?_eq_some_iff_getElem.1 hfind
    have hplace : ringPlace counter t = i := by
      rw [← ht, tagRing_get hi]
      exact ringPlace_tagRing hc (tagRing_length counter ▸ hi)
    rw [hnext, hfind, Option.getD_some, hplace]
    refine Nat.le_of_not_lt fun hlt => ?_
    have hused := hbefore _ hlt
    rw [hx, hunused] at hused
    exact Bool.false_ne_true hused

/-- Settles O36: by the ring of tags, and by the seconds at which a sum can rise. -/
theorem nextTagAndCapacityQuestion : Obligations.NextTagAndCapacityQuestion := by
  refine ⟨fun counter table hc hlength => ?_, fun r a b s => ?_, fun _ _ _ _ _ => rfl⟩
  · obtain ⟨hmin, hmax, hunused⟩ := nextTag_free counter (table := table) (by omega)
    exact ⟨hmin, hmax, hunused, fun x h h' hfree => nextTag_first hc h h' hfree⟩
  · rw [fits_iff]
    exact ⟨fun h t ha hb hnow => h t hnow ha hb, fun h t hnow ha hb => h t ha hb hnow⟩

/-! ## The rating curve (O49) -/

section

variable {p q : RatingPoint} {rest : List RatingPoint} {h : Nat}

theorem curveOrdered_cons : curveOrdered (p :: q :: rest) = true
    ↔ (p.head < q.head ∧ p.flow ≤ q.flow) ∧ curveOrdered (q :: rest) = true := by
  simp [curveOrdered]

/-- On an ordered curve no head is below the first. -/
theorem curveOrdered_first (hl : curveOrdered (p :: rest) = true) : ∀ x ∈ p :: rest, p.head ≤ x.head := by
  induction rest generalizing p with
  | nil =>
    intro x hx
    rw [List.mem_singleton.1 hx]
  | cons q rest ih =>
    obtain ⟨⟨hhead, -⟩, htail⟩ := curveOrdered_cons.1 hl
    intro x hx
    obtain rfl | hx := List.mem_cons.1 hx
    · exact Nat.le_refl _
    · exact (Nat.le_of_lt hhead).trans (ih htail x hx)

theorem curveFlow_below (hh : h ≤ p.head) : curveFlow h (p :: rest) = p.flow := by
  cases rest with
  | nil => rfl
  | cons q rest => exact if_pos hh

/-- A head at or above the second point is read on the curve from there. -/
theorem curveFlow_later (hpq : p.head < q.head) (hh : q.head ≤ h) :
    curveFlow h (p :: q :: rest) = curveFlow h (q :: rest) := by
  rw [curveFlow, if_neg (by omega), if_neg (by omega)]

theorem curveFlow_between (hp : p.head ≤ h) (hq : h < q.head) :
    curveFlow h (p :: q :: rest) = p.flow + (q.flow - p.flow) * (h - p.head) / (q.head - p.head) := by
  by_cases hle : h ≤ p.head
  · obtain rfl : h = p.head := Nat.le_antisymm hle hp
    rw [curveFlow_below (Nat.le_refl _), Nat.sub_self, Nat.mul_zero, Nat.zero_div, Nat.add_zero]
  · rw [curveFlow, if_neg hle, if_pos hq, flowBetween]

theorem curveFlow_above (hl : curveOrdered (p :: rest) = true) (hq : (p :: rest).getLast? = some q) (hh : q.head ≤ h) :
    curveFlow h (p :: rest) = q.flow := by
  induction rest generalizing p with
  | nil =>
    obtain rfl : p = q := Option.some.inj hq
    rfl
  | cons r rest ih =>
    obtain ⟨⟨hhead, -⟩, htail⟩ := curveOrdered_cons.1 hl
    have hlast : (r :: rest).getLast? = some q := by rw [← hq, List.getLast?_cons_cons]
    have hr := curveOrdered_first htail q (List.mem_of_getLast? hlast)
    rw [curveFlow_later hhead (hr.trans hh)]
    exact ih htail hlast

theorem curveFlow_segment {k : Nat} {l : List RatingPoint} (hl : curveOrdered l = true) (hp : l[k]? = some p)
    (hq : l[k + 1]? = some q) (hh : p.head ≤ h) (hh' : h < q.head) :
    curveFlow h l = p.flow + (q.flow - p.flow) * (h - p.head) / (q.head - p.head) := by
  induction k generalizing l with
  | zero =>
    match l with
    | a :: b :: rest =>
      obtain rfl : a = p := Option.some.inj hp
      obtain rfl : b = q := Option.some.inj hq
      exact curveFlow_between hh hh'
  | succ k ih =>
    match l with
    | a :: b :: rest =>
      obtain ⟨⟨hhead, -⟩, htail⟩ := curveOrdered_cons.1 hl
      have hb := curveOrdered_first htail p (List.mem_of_getElem? hp)
      rw [curveFlow_later hhead (hb.trans hh)]
      exact ih htail hp hq

end

/-- Settles O49: along the curve's points, from the first on. -/
theorem ratingCurveIsReadAlongItsLines : Obligations.RatingCurveIsReadAlongItsLines := by
  intro r c h hl
  cases hcurve : curvePoints r c with
  | nil => simp
  | cons a rest =>
    rw [hcurve] at hl
    refine ⟨fun p hp hh => ?_, fun p hp hh => curveFlow_above hl hp hh, fun k p q => curveFlow_segment hl⟩
    obtain rfl : a = p := Option.some.inj hp
    exact curveFlow_below hh

end Sys2Proof.Machine

/-! PROOFS. Gate timers and gate reports (O44, O45). -/

namespace Sys2Proof.Machine

open Sys2Proof.Safety

section

variable {t : Turnout} {s : State}

/-! ## Entry to FAULT (R125) -/

theorem runningFrost_eq (t : Turnout) (s : State) :
    runningFrost t s = match runningOn t s.orders.table with | some o => isFrost o.cls | none => false := by
  unfold runningFrost
  cases runningOn t s.orders.table <;> rfl

theorem endRunning_eq (c : EndCause) (t : Turnout) (s : State) :
    endRunning c t s = match runningOn t s.orders.table with | some o => endOrder c o s | none => s := by
  unfold endRunning
  cases runningOn t s.orders.table <;> rfl

theorem enterFault_unassigned (h : ownReach s = 0) (c : FaultCause) :
    enterFault t c s = raise .gateFault { s with gates := putAt s.gates t (faultedGate c (getAt s.gates t)) } := by
  unfold enterFault
  dsimp only
  rw [gateSet_unassigned (by exact h)]
  rfl

/-- The entry to FAULT of an assigned part: the GATE SET 0, the record commanded, and the flag. -/
theorem enterFault_assigned (h : ownReach s ≠ 0) (c : FaultCause) :
    enterFault t c s = raise .gateFault
      { place .d (mkFrame ⟨ownReach s, t.val + 1⟩ ⟨ownReach s, 0⟩ 0x31 (be 2 0) (runningFrost t s)) s with
        gates := putAt s.gates t { faultedGate c (getAt s.gates t) with
          commanded := 0
          lastCommand := s.clock.seconds
          stamp := s.clock.run }
        gateWaiting := s.gateWaiting.filter fun x => x != t } := by
  have hrecord : commandedGate 0 false t (mapGate t (faultedGate c) s)
      = { faultedGate c (getAt s.gates t) with commanded := 0, lastCommand := s.clock.seconds, stamp := s.clock.run } := by
    rw [commandedGate, mapGate_gates, getAt_putAt_self]
    rfl
  unfold enterFault
  dsimp only
  rw [gateSet_assigned (by exact h), hrecord, mapGate_gates, putAt_putAt]
  rfl

theorem exec_gateReplyTimeout (hrun : Runs s) (hstate : (getAt s.gates t).state = .moving)
    (htimer : (getAt s.gates t).replyTimer.isSome = true) :
    exec (.gateReplyTimeout t) s = .next (endRunning .gateFault t (enterFault t .silent s)) := by
  show Host.Outcome.next (whileRunning (replyTimeout t) s) = _
  rw [whileRunning_runs hrun]
  exact congrArg _ (if_pos ⟨hstate, htimer⟩)

theorem exec_gateTravelTimeout (hrun : Runs s) (hstate : (getAt s.gates t).state = .moving)
    (htimer : (getAt s.gates t).travelTimer.isSome = true) :
    exec (.gateTravelTimeout t) s = .next (endRunning .gateFault t (enterFault t .stuck s)) := by
  show Host.Outcome.next (whileRunning (travelTimeout t) s) = _
  rw [whileRunning_runs hrun]
  exact congrArg _ (if_pos ⟨hstate, htimer⟩)

/-- Settles O44: by the entry to FAULT, of an assigned part and of an unassigned one. -/
theorem gateTimersExpire : Obligations.GateTimersExpire := by
  intro t s hrun g frost broken faulted ordered
  have hends : ∀ c, endRunning .gateFault t (enterFault t c s) = ordered (faulted c) := fun c => by
    have htable : (enterFault t c s).orders = s.orders := (enterFault_within t c s).keeps .orders (by decide)
    have hfaulted : enterFault t c s = faulted c := by
      by_cases h : ownReach s = 0
      · rw [enterFault_unassigned h]
        exact congrArg (raise .gateFault) (if_pos h).symm
      · rw [enterFault_assigned h, runningFrost_eq]
        exact congrArg (raise .gateFault) (if_neg h).symm
    rw [endRunning_eq, htable, hfaulted] <;> rfl
  exact ⟨fun hstate htimer => by rw [exec_gateReplyTimeout hrun hstate htimer, hends],
    fun hstate htimer => by rw [exec_gateTravelTimeout hrun hstate htimer, hends]⟩

/-! ## Reports (R121 to R124) -/

theorem parseReport_bytes {x : Nat} (hx : x ≤ 1000) (moving ready : Bool) :
    parseReport (be 2 x ++ flagByte moving ++ flagByte ready) = some ⟨x, moving, ready⟩ := by
  have hlast := field_flagByte_append ready []
  rw [List.append_nil] at hlast
  have hfields : field (be 2 x ++ flagByte moving ++ flagByte ready) 0 2 = x
      ∧ field (be 2 x ++ flagByte moving ++ flagByte ready) 2 1 = (if moving = true then 1 else 0)
      ∧ field (be 2 x ++ flagByte moving ++ flagByte ready) 3 1 = (if ready = true then 1 else 0) := by
    simp (disch := omega) only [List.append_assoc, field_be_append, field_skip, field_flagByte_append,
      field_flagByte_skip, hlast, Nat.reduceSub, and_self]
  obtain ⟨h0, h2, h3⟩ := hfields
  have hflag : ∀ b : Bool, (if b = true then 1 else 0) ≤ 1 := fun b => by cases b <;> decide
  unfold parseReport
  rw [h0, h2, h3, if_pos ⟨by simp, hx, hflag _, hflag _⟩, flag_reads, flag_reads]

theorem parseReport_malformed {body : List Byte}
    (h : body.length ≠ 4 ∨ 1000 < field body 0 2 ∨ 1 < field body 2 1 ∨ 1 < field body 3 1) : parseReport body = none := by
  refine if_neg fun hw => ?_
  omega

theorem takeReport_parsed {body : List Byte} {r : GateReport} (h : parseReport body = some r) :
    takeReport t body s = wellFormedReport t r s := by
  simp only [takeReport, h]

/-- A report's record in place: every report updates it (R121). -/
def reported (t : Turnout) (r : GateReport) (s : State) : State := mapGate t (reportedGate r) s

theorem reported_gate {r : GateReport} : getAt (reported t r s).gates t = reportedGate r (getAt s.gates t) :=
  getAt_putAt_self _ _ _

theorem mapGate_reported {r : GateReport} (f : GateRec → GateRec) :
    mapGate t f (reported t r s) = { s with gates := putAt s.gates t (f (reportedGate r (getAt s.gates t))) } := by
  rw [mapGate, reported_gate, reported, mapGate_gates, putAt_putAt]
  rfl

theorem wellFormedReport_inFault {r : GateReport} {c : FaultCause} (h : (getAt s.gates t).state = .fault c) :
    wellFormedReport t r s = reportInFault t r (reported t r s) := by
  simp only [wellFormedReport, h, reported]

theorem wellFormedReport_outOfFault {r : GateReport} (h : ∀ c, (getAt s.gates t).state ≠ .fault c) :
    wellFormedReport t r s = reportOutOfFault t r (reported t r s) := by
  unfold wellFormedReport
  split
  next hc => exact absurd hc (h _)
  · rfl

/-! ### The outcome of a report -/

section

variable {g : GateRec} {x : Nat}

theorem reportOutcome_lockedOut {moving : Bool} (h : g.commanded ≠ 0) :
    reportOutcome g ⟨x, moving, false⟩ = .faults .lockedOut := by
  simp [reportOutcome, h]

theorem onTarget_iff {n : Nat} : onTarget x n = true ↔ x ≤ n + 10 ∧ n ≤ x + 10 := by
  rw [onTarget, Bool.and_eq_true, decide_eq_true_iff, decide_eq_true_iff]
  rfl

theorem reportOutcome_still {ready : Bool} (h : ready = true ∨ g.commanded = 0) :
    reportOutcome g ⟨x, false, ready⟩ = if onTarget x g.commanded then
        .settles (if g.commanded = 0 then .closed else .opened)
      else .faults .stuck := by
  have hready : (!ready && g.commanded != 0) = false := by obtain rfl | h := h <;> simp_all
  simp only [reportOutcome, hready, Bool.false_eq_true, if_false, Bool.not_false, if_true]

theorem reportOutcome_moving {ready : Bool} (h : ready = true ∨ g.commanded = 0) :
    reportOutcome g ⟨x, true, ready⟩ = if g.state = .moving then .stays else .startsMoving := by
  have hready : (!ready && g.commanded != 0) = false := by obtain rfl | h := h <;> simp_all
  simp only [reportOutcome, hready, Bool.false_eq_true, if_false, Bool.not_true]

end

section

variable {r : GateReport}

theorem reportOutOfFault_faults {c : FaultCause} (h : reportOutcome (getAt s.gates t) r = .faults c) :
    reportOutOfFault t r s = endRunning .gateFault t (lockoutOf t r (enterFault t c s)) := by
  simp only [reportOutOfFault, h]
  rfl

theorem reportOutOfFault_settles {st : GateState} (h : reportOutcome (getAt s.gates t) r = .settles st) :
    reportOutOfFault t r s = lockoutOf t r (mapGate t (settledGate st) s) := by
  simp only [reportOutOfFault, h]

theorem reportOutOfFault_startsMoving (h : reportOutcome (getAt s.gates t) r = .startsMoving) :
    reportOutOfFault t r s = lockoutOf t r (mapGate t (fun g => { g with
      state := .moving, travelTimer := some (getAt s.tables.turnouts t).travelLimit }) s) := by
  simp only [reportOutOfFault, h]

theorem reportOutOfFault_stays (h : reportOutcome (getAt s.gates t) r = .stays) :
    reportOutOfFault t r s = lockoutOf t r s := by
  simp only [reportOutOfFault, h]

end

theorem lockoutOf_eq (t : Turnout) (r : GateReport) (s : State) :
    lockoutOf t r s = if r.ready = true then s else endRunning .lockedOut t s := rfl

theorem clearsFault_iff {x : Nat} {moving ready : Bool} :
    clearsFault ⟨x, moving, ready⟩ = true ↔ moving = false ∧ x ≤ 10 ∧ ready = true := by
  have hlow : decide (x ≤ gateTolerance) = true ↔ x ≤ 10 := decide_eq_true_iff
  simp only [clearsFault, Bool.and_eq_true, Bool.not_eq_true', hlow, and_assoc]

end

/-- Settles O45: by the gate's state before the report, and by the report's outcome. -/
theorem gateReportIsTaken : Obligations.GateReportIsTaken := by
  intro t m s hrun hassigned
  have hown : ownReach s ≠ 0 := assigned_ne_zero hassigned
  refine ⟨fun body hbody => ?_, fun x ready hx => ?_⟩
  · rw [exec_gateReport hrun hassigned, takeReport, parseReport_malformed hbody]
  intro g still moving taken ends lockout becomes frost placed faulted near
  have hexec : ∀ mv : Bool, exec (.gateReport t m (be 2 x ++ flagByte mv ++ flagByte ready)) s
      = .next (wellFormedReport t ⟨x, mv, ready⟩ s) := fun mv => by
    rw [exec_gateReport hrun hassigned, takeReport_parsed (parseReport_bytes hx mv ready)]
  have hlockout : ∀ mv y, lockoutOf t ⟨x, mv, ready⟩ y = lockout y := fun mv y => by
    rw [lockoutOf_eq, endRunning_eq] <;> rfl
  have hrecord : ∀ mv, getAt (reported t ⟨x, mv, ready⟩ s).gates t = taken := fun mv => reported_gate
  have hbecomes : ∀ mv f, Host.Outcome.next (lockoutOf t ⟨x, mv, ready⟩ (mapGate t f (reported t ⟨x, mv, ready⟩ s)))
      = becomes (f taken) := fun mv f => by
    rw [hlockout, mapGate_reported]
    rfl
  have hstays : ∀ mv, Host.Outcome.next (lockoutOf t ⟨x, mv, ready⟩ (reported t ⟨x, mv, ready⟩ s)) = becomes taken :=
    fun mv => congrArg Host.Outcome.next (hlockout mv _)
  have hfaults : ∀ mv c, Host.Outcome.next (endRunning .gateFault t (lockoutOf t ⟨x, mv, ready⟩
      (enterFault t c (reported t ⟨x, mv, ready⟩ s)))) = faulted c := fun mv c => by
    have hmarked : runningFrost t (reported t ⟨x, mv, ready⟩ s) = frost := runningFrost_eq t s
    rw [enterFault_assigned (by exact hown), hrecord, hmarked, reported, mapGate_gates, putAt_putAt, hlockout,
      endRunning_eq]
    rfl
  refine ⟨fun hout hready hcommanded => ?_, fun hout hgood => ⟨fun hnear hzero => ?_, fun hnear hnonzero => ?_,
    fun hfar => ?_, fun hmoving => ?_, fun hmoving => ?_⟩, fun c hfault => ⟨fun hlow hready => ?_, fun hother => ?_, ?_⟩⟩
  · subst hready
    have hreport : ∀ mv, exec (.gateReport t m (be 2 x ++ flagByte mv ++ flagByte false)) s = faulted .lockedOut := fun mv => by
      have houtcome : reportOutcome (getAt (reported t ⟨x, mv, false⟩ s).gates t) ⟨x, mv, false⟩ = .faults .lockedOut := by
        rw [hrecord]
        exact reportOutcome_lockedOut hcommanded
      rw [hexec, wellFormedReport_outOfFault hout, reportOutOfFault_faults houtcome, hfaults]
    exact ⟨hreport false, hreport true⟩
  · refine (hexec false).trans ?_
    have houtcome : reportOutcome (getAt (reported t ⟨x, false, ready⟩ s).gates t) ⟨x, false, ready⟩ = .settles .closed := by
      rw [hrecord]
      exact (reportOutcome_still (g := taken) hgood).trans
        ((if_pos (onTarget_iff.2 hnear)).trans (congrArg _ (if_pos hzero)))
    rw [wellFormedReport_outOfFault hout, reportOutOfFault_settles houtcome]
    exact hbecomes false _
  · refine (hexec false).trans ?_
    have houtcome : reportOutcome (getAt (reported t ⟨x, false, ready⟩ s).gates t) ⟨x, false, ready⟩ = .settles .opened := by
      rw [hrecord]
      exact (reportOutcome_still (g := taken) hgood).trans
        ((if_pos (onTarget_iff.2 hnear)).trans (congrArg _ (if_neg hnonzero)))
    rw [wellFormedReport_outOfFault hout, reportOutOfFault_settles houtcome]
    exact hbecomes false _
  · refine (hexec false).trans ?_
    have houtcome : reportOutcome (getAt (reported t ⟨x, false, ready⟩ s).gates t) ⟨x, false, ready⟩ = .faults .stuck := by
      rw [hrecord]
      exact (reportOutcome_still (g := taken) hgood).trans (if_neg fun h => hfar (onTarget_iff.1 h))
    rw [wellFormedReport_outOfFault hout, reportOutOfFault_faults houtcome, hfaults]
  · refine (hexec true).trans ?_
    have houtcome : reportOutcome (getAt (reported t ⟨x, true, ready⟩ s).gates t) ⟨x, true, ready⟩ = .stays := by
      rw [hrecord]
      exact (reportOutcome_moving (g := taken) hgood).trans (if_pos hmoving)
    rw [wellFormedReport_outOfFault hout, reportOutOfFault_stays houtcome, hstays]
  · refine (hexec true).trans ?_
    have houtcome : reportOutcome (getAt (reported t ⟨x, true, ready⟩ s).gates t) ⟨x, true, ready⟩ = .startsMoving := by
      rw [hrecord]
      exact (reportOutcome_moving (g := taken) hgood).trans (if_neg hmoving)
    rw [wellFormedReport_outOfFault hout, reportOutOfFault_startsMoving houtcome]
    exact hbecomes true _
  · refine (hexec false).trans ?_
    rw [wellFormedReport_inFault hfault, reportInFault, if_pos (clearsFault_iff.2 ⟨rfl, hlow, hready⟩)]
    exact hbecomes false _
  · refine (hexec false).trans ?_
    rw [wellFormedReport_inFault hfault, reportInFault, if_neg, hstays]
    intro hclears
    obtain ⟨-, hlow, hready⟩ := clearsFault_iff.1 hclears
    exact hother.elim (Nat.not_lt.2 hlow) fun h => Bool.false_ne_true (h.symm.trans hready)
  · refine (hexec true).trans ?_
    rw [wellFormedReport_inFault hfault, reportInFault, if_neg fun h => Bool.false_ne_true (clearsFault_iff.1 h).1.symm,
      hstays]

end Sys2Proof.Machine

/-! PROOFS. Scan timers (O46). -/

namespace Sys2Proof.Machine

open Sys2Proof.Safety

/-! ## Scans and polls (R134 to R136) -/

theorem sendStation_eq (x k : Nat) (b : List Byte) (m : Bool) (s : State) :
    sendStation x k b m s
      = place (if ownReach s = 0 then .u else .d) (mkFrame ⟨ownReach s, x⟩ (ownAddr s) k b m) s := by
  have hqueue : queueFor (stationAddr s x) s = if ownReach s = 0 then .u else .d := by
    simp [queueFor, stationAddr]
  rw [sendStation, send, hqueue]
  rfl

/-- The scan list is the stations that the tables name, in ascending order, and empty at an unassigned part. -/
theorem scanListOf_eq (s : State) :
    scanListOf s = (List.finRange 18).filter fun x : Station => decide (ownReach s ≠ 0)
      && (if h : x.val < 16 then (getAt s.tables.turnouts ⟨x.val, h⟩).enabled
          else if x.val = 16 then s.tables.scan.inflow else s.tables.scan.outflow) := by
  unfold scanListOf
  split
  next h => simp [h]
  next h =>
    refine List.filter_congr fun x _ => ?_
    rw [decide_eq_true h, Bool.true_and]
    unfold turnoutOfStation
    by_cases hx : x.val < 16
    · rw [dif_pos hx, dif_pos hx]
    · have hinflow : x = inflowStation ↔ x.val = 16 := Fin.ext_iff
      rw [dif_neg hx, dif_neg hx]
      simp only [hinflow]

theorem relist_eq (run : Nat) (old new : List Station) (x : Station) (r : StationRec) :
    relist run old new x r = if (x ∈ old ↔ x ∈ new) then r
      else { state := .new, misses := 0, rate := 0, ref := run, carry := 0,
             unmetered := if x ∈ new then r.unmetered
               else min 16777215 (r.unmetered + (if r.state = .lost then run - r.ref else 0)) } := by
  have hsame : (old.contains x == new.contains x) = true ↔ (x ∈ old ↔ x ∈ new) := by
    rw [beq_iff_eq, Bool.eq_iff_iff, List.contains_iff_mem, List.contains_iff_mem]
  unfold relist
  by_cases h : x ∈ old ↔ x ∈ new
  · rw [if_pos (hsame.2 h), if_pos h]
  · rw [if_neg fun hc => h (hsame.1 hc), if_neg h]
    by_cases hnew : x ∈ new
    · rw [if_pos (List.contains_iff_mem.2 hnew), if_pos hnew]
      rfl
    · rw [if_neg fun hc => hnew (List.contains_iff_mem.1 hc), if_neg hnew, ← pendingGap_eq]
      rfl

/-- A HEAD POLL of a station, with its timer. -/
theorem placePoll_eq (x : Station) (res settle : Nat) (rest : List Station) (s : State) :
    placePoll x res settle rest s =
      { place (if ownReach s = 0 then .u else .d)
          (mkFrame ⟨ownReach s, x.val + 1⟩ (ownAddr s) 0x41 (be 1 res ++ be 1 settle) false) s with
        scan := { s.scan with
          phase := .scanning res settle x rest
          outstanding := true
          pollTimer := some s.tables.timing.pollReply } } := by
  rw [placePoll, sendStation_eq]

/-- The state in which a scan begins: the new list, the records joined and left, and no poll yet (R135). -/
def relisted (s : State) : State :=
  { s with scan := { s.scan with
    stations := relistAll s.clock.run s.scan.list (scanListOf s) s.scan.stations
    list := scanListOf s
    phase := .idle
    pending := false
    outstanding := false
    pollTimer := none } }

theorem beginScan_empty {s : State} (h : scanListOf s = []) : beginScan s = relisted s := by
  unfold beginScan relisted
  rw [h]

theorem beginScan_polls {s : State} {x : Station} {rest : List Station} (h : scanListOf s = x :: rest) :
    beginScan s = placePoll x s.tables.scan.resolution s.tables.scan.settle rest (relisted s) := by
  unfold beginScan relisted
  rw [h]

/-! ## Timers (R134, R136, R139) -/

theorem exec_scanIntervalExpiry {s : State} (hrun : Runs s) :
    exec .scanIntervalExpiry s = .next (intervalExpiry s) := by
  show Host.Outcome.next (whileRunning intervalExpiry s) = _
  rw [whileRunning_runs hrun]

theorem intervalExpiry_scanning {s : State} (hinterval : s.scan.interval.isSome = true) (hphase : s.scan.phase ≠ .idle) :
    intervalExpiry s = if s.scan.pending then { s with scan := { s.scan with interval := some s.tables.scan.interval } }
      else raise .scanOverrun
        { s with scan := { s.scan with interval := some s.tables.scan.interval, pending := true } } := by
  obtain ⟨n, hn⟩ := Option.isSome_iff_exists.1 hinterval
  unfold intervalExpiry
  rw [hn]
  dsimp only
  split
  next h => exact absurd h hphase
  · rfl

theorem exec_pollReplyTimeout {s : State} (hrun : Runs s) {res settle : Nat} {x : Station} {rest : List Station}
    (hphase : s.scan.phase = .scanning res settle x rest) (hout : s.scan.outstanding = true)
    (htimer : s.scan.pollTimer.isSome = true) : exec .pollReplyTimeout s = .next (missPoll x s) := by
  obtain ⟨n, hn⟩ := Option.isSome_iff_exists.1 htimer
  show Host.Outcome.next (whileRunning pollTimeout s) = _
  rw [whileRunning_runs hrun]
  simp only [pollTimeout, hphase, hout, hn]

theorem becomesLost_iff {r : StationRec} : becomesLost r = true ↔ r.state ≠ .lost ∧ 2 ≤ r.misses := by
  simp [becomesLost]

theorem missedStation_early {r : StationRec} (h : r.misses < 2) : missedStation r = { r with misses := r.misses + 1 } := by
  have hmin : min 3 (r.misses + 1) = r.misses + 1 := by omega
  unfold missedStation
  dsimp only
  rw [hmin, if_neg (by omega)]

theorem missedStation_third {r : StationRec} (h : 2 ≤ r.misses) : missedStation r = { r with misses := 3, state := .lost } := by
  have hmin : min 3 (r.misses + 1) = 3 := by omega
  unfold missedStation
  dsimp only
  rw [hmin, if_pos rfl]

/-- Settles O46: by the scan's phase at an expiry, by the record's misses, and by the list of a scan that begins. -/
theorem scanTimersExpire : Obligations.ScanTimersExpire := by
  refine ⟨fun s hrun hinterval => ?_, fun s hrun res settle x rest hphase hout htimer => ?_, fun s stations => ?_⟩
  · intro restarted
    refine ⟨fun hidle => ?_, fun hphase hpending => ?_, fun hphase hpending => ?_⟩
    · obtain ⟨n, hn⟩ := Option.isSome_iff_exists.1 hinterval
      rw [exec_scanIntervalExpiry hrun, intervalExpiry, hn, hidle]
    · rw [exec_scanIntervalExpiry hrun, intervalExpiry_scanning hinterval hphase,
        if_neg (by rw [hpending]; exact Bool.false_ne_true)]
    · rw [exec_scanIntervalExpiry hrun, intervalExpiry_scanning hinterval hphase, if_pos hpending]
  · intro r with'
    have hexec := exec_pollReplyTimeout hrun hphase hout htimer
    refine ⟨fun hstate hmisses => ?_, fun hstate hmisses => ?_, fun hstate hmisses => ?_⟩
    · rw [hexec, missPoll, if_neg fun h => Nat.not_le.2 hmisses (becomesLost_iff.1 h).2, mapStation,
        missedStation_early hmisses]
    · rw [hexec, missPoll, if_pos (becomesLost_iff.2 ⟨hstate, hmisses.ge⟩), mapStation, missedStation_third hmisses.ge]
    · have hsame : missedStation r = r := by
        rw [missedStation_third (by omega), ← hmisses, ← hstate]
      rw [hexec, missPoll, if_neg fun h => (becomesLost_iff.1 h).1 hstate, mapStation, hsame]
  · intro listed list polled ended begun
    have hlist : scanListOf s = list := scanListOf_eq s
    refine ⟨fun hstations => ?_, fun res settle x y rest hphase => ?_, fun res settle x hphase => ?_⟩
    · have hall : stations = relistAll s.clock.run s.scan.list list s.scan.stations := table_ext fun x => by
        rw [hstations x, relistAll, getAt_tableOf, relist_eq]
      have hbegun : relisted s = begun := by
        simp only [begun, relisted, hlist, hall]
        rfl
      refine ⟨fun hempty => ?_, fun x rest hcons => ?_⟩
      · rw [beginScan_empty (hlist.trans hempty), hbegun]
      · rw [beginScan_polls (hlist.trans hcons), hbegun, placePoll_eq]
    · rw [completePoll, hphase]
      exact placePoll_eq _ _ _ _ _
    · rw [completePoll, hphase]

end Sys2Proof.Machine

/-! PROOFS. TIME, FROST CALL and CURTAIL (O29, O30, O31). -/

namespace Sys2Proof.Machine

open Sys2Proof.Safety

/-! ## TIME (O29) -/

section

variable {p x : Nat} {s : State}

theorem takeTime_bytes (hp : p < 65536) (hx : x < 16777216) : takeTime (be 2 p ++ be 3 x) s = wellFormedTime p x s := by
  have hfields : field (be 2 p ++ be 3 x) 0 2 = p ∧ field (be 2 p ++ be 3 x) 2 3 = x := by
    simp (disch := omega) only [field_be_append, field_skip, field_be, Nat.reduceSub, and_self]
  rw [takeTime, if_pos (by simp), hfields.1, hfields.2]

theorem takeTime_malformed {body : List Byte} (h : body.length ≠ 5) :
    takeTime body s = raise .timeRejected (countRefusedSource .u s) := if_neg h

theorem wellFormedTime_late (h : s.tables.reach.periodLength ≤ x) : wellFormedTime p x s = raise .timeRejected s :=
  if_pos h

theorem wellFormedTime_unset (h : x < s.tables.reach.periodLength) (hc : s.clock.status = .unset) :
    wellFormedTime p x s = timeWhileUnset p x s := by
  unfold wellFormedTime
  rw [if_neg (Nat.not_le.2 h), hc]

theorem wellFormedTime_set (h : x < s.tables.reach.periodLength) (hc : s.clock.status = .set) :
    wellFormedTime p x s = timeWhileSet p x s := by
  unfold wellFormedTime
  rw [if_neg (Nat.not_le.2 h), hc]

theorem timeWhileUnset_far (h : 32768 ≤ (p + 65536 - s.clock.period) % 65536) :
    timeWhileUnset p x s = raise .timeRejected s := by
  have hahead : ¬ periodAhead p s.clock.period = 0 ∧ ¬ periodAhead p s.clock.period ≤ 32767 := by
    unfold periodAhead
    omega
  exact (if_neg hahead.1).trans (if_neg hahead.2)

theorem timeWhileUnset_same (h : (p + 65536 - s.clock.period) % 65536 = 0) :
    timeWhileUnset p x s = setTime p x s := if_pos h

theorem timeWhileUnset_later (h : 1 ≤ (p + 65536 - s.clock.period) % 65536)
    (h' : (p + 65536 - s.clock.period) % 65536 ≤ 32767) : timeWhileUnset p x s = setTime p x (catchUpClose s) :=
  (if_neg (Nat.ne_of_gt h)).trans (if_pos h')

theorem stepOk_iff {new old : Nat} : stepOk new old = true ↔ new ≤ old + 120 ∧ old ≤ new + 120 := by
  rw [stepOk, Bool.and_eq_true, decide_eq_true_iff, decide_eq_true_iff]
  rfl

theorem timeWhileSet_rejected (h : p ≠ s.clock.period ∨ s.clock.seconds + 120 < x ∨ x + 120 < s.clock.seconds) :
    timeWhileSet p x s = raise .timeRejected s := by
  refine if_neg fun ⟨hperiod, hstep⟩ => ?_
  have := stepOk_iff.1 hstep
  omega

theorem timeWhileSet_step (hp : p = s.clock.period) (h : x ≤ s.clock.seconds + 120) (h' : s.clock.seconds ≤ x + 120) :
    timeWhileSet p x s = if s.clock.seconds < x then setTime p x s
      else { s with clock := { s.clock with seconds := x } } := if_pos ⟨hp, stepOk_iff.2 ⟨h, h'⟩⟩

end

/-- Settles O29: by the clock's status and the distance of the time. -/
theorem timeIsTaken : Obligations.TimeIsTaken := by
  intro m s hrun hassigned
  refine ⟨fun body x hx => ?_, fun body hlength => ?_, fun p x hp hx => ?_⟩
  · rw [exec_time_broadcast hrun hassigned, ← Host.Outcome.next.inj ((exec_time hrun hassigned m body).symm.trans hx)]
  · rw [exec_time hrun hassigned, takeTime_malformed hlength]
  intro taken ahead c at'
  have htaken : taken = .next (wellFormedTime p x s) := by
    rw [← takeTime_bytes hp hx]
    exact exec_time hrun hassigned m _
  refine ⟨fun hlate => ?_, fun hearly hunset => ⟨fun hfar => ?_, fun hsame => ?_, fun hlow hhigh => ?_⟩,
    fun hearly hset => ⟨fun hother => ?_, fun hperiod hforward hstep => ?_, fun hperiod hback hstep => ?_⟩⟩
  · rw [htaken, wellFormedTime_late hlate]
  · rw [htaken, wellFormedTime_unset hearly hunset, timeWhileUnset_far hfar]
  · rw [htaken, wellFormedTime_unset hearly hunset, timeWhileUnset_same hsame, setTime]
  · rw [htaken, wellFormedTime_unset hearly hunset, timeWhileUnset_later hlow hhigh]
    rfl
  · rw [htaken, wellFormedTime_set hearly hset, timeWhileSet_rejected hother]
  · have hkept : { s.clock with status := .set, period := p, seconds := x } = { s.clock with seconds := x } := by
      rw [hperiod, ← hset]
    rw [htaken, wellFormedTime_set hearly hset, timeWhileSet_step hperiod hstep
      ((Nat.le_of_lt hforward).trans (Nat.le_add_right _ _)), if_pos hforward, setTime, hkept]
  · rw [htaken, wellFormedTime_set hearly hset, timeWhileSet_step hperiod (hback.trans (Nat.le_add_right _ _)) hstep,
      if_neg (Nat.not_lt.2 hback)]

/-! ## FROST CALL (O30) -/

theorem takeFrostCall_bytes {k a b : Nat} {s : State} (hk : k ≤ 1) (ha : a < 16777216) (hb : b < 16777216)
    (hwell : k = 1 → a < b) :
    takeFrostCall (be 1 k ++ be 3 a ++ be 3 b) s = if k = 1 then setFrost (some ⟨a, b⟩) s else setFrost none s := by
  have hfields : field (be 1 k ++ be 3 a ++ be 3 b) 0 1 = k ∧ field (be 1 k ++ be 3 a ++ be 3 b) 1 3 = a
      ∧ field (be 1 k ++ be 3 a ++ be 3 b) 4 3 = b := by
    simp (disch := omega) only [List.append_assoc, field_be_append, field_skip, field_be, Nat.reduceSub, and_self]
  obtain ⟨h0, h1, h4⟩ := hfields
  unfold takeFrostCall
  dsimp only
  rw [h0, h1, h4, if_neg]
  rintro (hlength | hover | ⟨hone, hle⟩)
  · simp at hlength
  · omega
  · have := hwell hone
    omega

/-- Settles O30: by the body, and by the window end raised. -/
theorem frostCallIsTaken : Obligations.FrostCallIsTaken := by
  intro m s hrun hassigned
  refine ⟨fun body x hx => ?_, fun body hbody => ?_, fun a b hab hb => ?_, fun a b ha hb => ?_, fun hraised => ?_⟩
  · rw [exec_frostCall_broadcast hrun hassigned, ← Host.Outcome.next.inj ((exec_frostCall hrun hassigned m body).symm.trans hx)]
  · rw [exec_frostCall hrun hassigned]
    exact congrArg _ (if_pos hbody)
  · rw [exec_frostCall hrun hassigned, takeFrostCall_bytes (Nat.le_refl 1) (by omega) hb fun _ => hab]
    rfl
  · rw [exec_frostCall hrun hassigned, takeFrostCall_bytes (Nat.zero_le 1) ha hb fun h => absurd h (by decide)]
    rfl
  · show Host.Outcome.next (whileRunning frostEnd s) = _
    rw [whileRunning_runs hrun]
    exact congrArg _ (if_pos hraised)

/-! ## CURTAIL (O31) -/

/-- The body of a CURTAIL that names pairs of a reach and a limit. -/
def curtailBytes (pairs : List (Nat × Nat)) : List Byte := pairs.flatMap fun p => be 1 p.1 ++ be 2 p.2

theorem curtailBytes_cons (p : Nat × Nat) (pairs : List (Nat × Nat)) :
    curtailBytes (p :: pairs) = be 1 p.1 ++ (be 2 p.2 ++ curtailBytes pairs) := by
  simp [curtailBytes]

theorem curtailBytes_length (pairs : List (Nat × Nat)) : (curtailBytes pairs).length = 3 * pairs.length := by
  induction pairs with
  | nil => rfl
  | cons p pairs ih =>
    rw [curtailBytes_cons]
    simp only [List.length_append, be_length, ih, List.length_cons]
    omega

theorem firstPair_curtailBytes {n : Nat} {pairs : List (Nat × Nat)} (h : ∀ p ∈ pairs, p.1 < 256 ∧ p.2 < 65536) :
    firstPair n pairs.length (curtailBytes pairs) = (pairs.find? fun p => p.1 == n).map (·.2) := by
  induction pairs with
  | nil => rfl
  | cons p pairs ih =>
    obtain ⟨hreach, hlimit⟩ := h p (List.mem_cons_self ..)
    have hfields : field (curtailBytes (p :: pairs)) 0 1 = p.1 ∧ field (curtailBytes (p :: pairs)) 1 2 = p.2 := by
      rw [curtailBytes_cons]
      simp (disch := omega) only [field_be_append, field_skip, Nat.reduceSub, and_self]
    have hdrop : (curtailBytes (p :: pairs)).drop 3 = curtailBytes pairs := rfl
    rw [List.length_cons, firstPair, hfields.1, hfields.2, hdrop, ih fun q hq => h q (List.mem_cons_of_mem _ hq),
      List.find?_cons]
    by_cases hown : p.1 = n
    · rw [if_pos hown, beq_iff_eq.2 hown]
      rfl
    · rw [if_neg hown, beq_eq_false_iff_ne.2 hown]

theorem curtailOk_iff {b : List Byte} : curtailOk b = true ↔ b.length % 3 = 0 ∧ 3 ≤ b.length ∧ b.length ≤ 36 := by
  simp [curtailOk, within_iff]

section

variable {pairs : List (Nat × Nat)} {s : State}

theorem takeCurtail_pairs (h : 1 ≤ pairs.length) (h' : pairs.length ≤ 12) (hpairs : ∀ p ∈ pairs, p.1 < 256 ∧ p.2 < 65536) :
    curtailOk (curtailBytes pairs) = true
      ∧ firstPair (ownReach s) ((curtailBytes pairs).length / 3) (curtailBytes pairs)
        = (pairs.find? fun p => p.1 == ownReach s).map (·.2) := by
  have hlength := curtailBytes_length pairs
  have hcount : (curtailBytes pairs).length / 3 = pairs.length := by omega
  rw [hcount]
  exact ⟨curtailOk_iff.2 (by omega), firstPair_curtailBytes hpairs⟩

theorem takeCurtail_other {b : List Byte} (h : curtailOk b = true) (hfirst : firstPair (ownReach s) (b.length / 3) b = none) :
    takeCurtail b s = s := by
  simp only [takeCurtail, h, hfirst, if_true]

theorem takeCurtail_own {b : List Byte} {limit : Nat} (h : curtailOk b = true)
    (hfirst : firstPair (ownReach s) (b.length / 3) b = some limit) :
    takeCurtail b s = recomputeDraw { s with clock := { s.clock with curtail := curtailOf limit } } := by
  simp only [takeCurtail, h, hfirst, if_true]

end

theorem drawLimitOf_curtailOf (capacity limit : Nat) :
    drawLimitOf capacity (curtailOf limit) = if limit = 65535 then capacity else min capacity limit := by
  unfold curtailOf
  split <;> rfl

theorem recomputeDraw_eq {s : State} {limit : Nat}
    (h : drawLimitOf s.tables.reach.localDraw s.clock.curtail = limit) :
    recomputeDraw s = if limit < s.clock.drawLimit then shed limit { s with clock := { s.clock with drawLimit := limit } }
      else { s with clock := { s.clock with drawLimit := limit } } := by
  subst h
  rfl

/-- Settles O31: by the first own pair, and by the limit it gives. -/
theorem curtailIsTaken : Obligations.CurtailIsTaken := by
  intro m s hrun hassigned
  refine ⟨fun body x hx => ?_, fun body hbody => ?_, fun pairs h h' hpairs => ?_⟩
  · rw [exec_curtail_broadcast hrun hassigned, ← Host.Outcome.next.inj ((exec_curtail hrun hassigned m body).symm.trans hx)]
  · rw [exec_curtail hrun hassigned]
    refine congrArg _ (if_neg fun hok => ?_)
    have := curtailOk_iff.1 hok
    omega
  intro taken own
  have htaken : taken = .next (takeCurtail (curtailBytes pairs) s) := exec_curtail hrun hassigned m _
  obtain ⟨hok, hfirst⟩ := takeCurtail_pairs (s := s) h h' hpairs
  refine ⟨fun hnone => ?_, fun k limit hsome => ?_⟩
  · rw [show (pairs.find? fun p => p.1 == ownReach s) = none from hnone] at hfirst
    rw [htaken, takeCurtail_other hok hfirst]
  · intro c draw set
    rw [show (pairs.find? fun p => p.1 == ownReach s) = some (k, limit) from hsome] at hfirst
    rw [takeCurtail_own hok hfirst] at htaken
    have hdraw : drawLimitOf s.tables.reach.localDraw (curtailOf limit) = draw := drawLimitOf_curtailOf _ _
    have hset : recomputeDraw { s with clock := { s.clock with curtail := curtailOf limit } }
        = if draw < s.clock.drawLimit then shed draw set else set := recomputeDraw_eq hdraw
    refine ⟨fun hhigh => htaken.trans ?_, fun hlow => htaken.trans ?_⟩
    · exact congrArg _ (hset.trans (if_neg (Nat.not_lt.2 hhigh)))
    · exact congrArg _ (hset.trans (if_pos hlow))

end Sys2Proof.Machine

/-! PROOFS. Ticks, the wrap, and the raising of reached times (O28). -/

namespace Sys2Proof.Machine

open Sys2Proof.Safety

/-! ## The order of the times raised -/

section

variable {ρ ε : Type} {l : List ρ} {booked : ρ → ε × Nat} {key : ε × Nat → Nat} {p : ε × Nat → Bool}

theorem mem_dueList {e : ε} :
    e ∈ (sortBy key ((l.map booked).filter p)).map (·.1) ↔ ∃ r ∈ l, p (booked r) = true ∧ (booked r).1 = e := by
  simp only [List.mem_map, mem_sortBy, List.mem_filter]
  constructor
  · rintro ⟨x, ⟨⟨r, hr, rfl⟩, hp⟩, rfl⟩
    exact ⟨r, hr, hp, rfl⟩
  · rintro ⟨r, hr, hp, rfl⟩
    exact ⟨booked r, ⟨⟨r, hr, rfl⟩, hp⟩, rfl⟩

/-- Where no two records book one event, each event stands once, and the events ascend by the key of what books them. -/
theorem dueList_ascends (h : l.Pairwise fun r x => (booked r).1 ≠ (booked x).1) :
    ((sortBy key ((l.map booked).filter p)).map (·.1)).Pairwise fun e f => e ≠ f ∧ ∀ r ∈ l, ∀ x ∈ l, ∀ a b,
      booked r = (e, a) → booked x = (f, b) → key (e, a) ≤ key (f, b) := by
  have hbooked : ∀ r ∈ l, ∀ x ∈ l, (booked r).1 = (booked x).1 → booked r = booked x := by
    intro r hr x hx heq
    by_contra hne
    have hsymm : Std.Symm fun r x : ρ => (booked r).1 ≠ (booked x).1 := ⟨fun _ _ hne => hne.symm⟩
    exact h.forall hr hx (fun hrx => hne (congrArg booked hrx)) heq
  have hdistinct : (sortBy key ((l.map booked).filter p)).Pairwise fun y z => y.1 ≠ z.1 := by
    refine ((sortBy_perm key _).pairwise_iff fun {_ _} hne => hne.symm).2 ?_
    exact List.Pairwise.sublist List.filter_sublist (List.pairwise_map.2 h)
  rw [List.pairwise_map]
  refine (hdistinct.and (sortBy_ascending key _)).imp_of_mem fun {y z} hy hz hyz => ⟨hyz.1, ?_⟩
  have hmem : ∀ {y}, y ∈ sortBy key ((l.map booked).filter p) → ∃ r ∈ l, booked r = y := fun hy =>
    List.mem_map.1 (List.mem_of_mem_filter ((mem_sortBy ..).1 hy))
  obtain ⟨u, hu, rfl⟩ := hmem hy
  obtain ⟨v, hv, rfl⟩ := hmem hz
  intro r hr x hx a b hra hxb
  have hru : booked r = booked u := hbooked r hr u hu (by rw [hra])
  have hxv : booked x = booked v := hbooked x hx v hv (by rw [hxb])
  rw [← hra, ← hxb, hru, hxv]
  exact hyz.2

end

theorem bookedOrder_tag (o : OrderRec) : (bookedOrder o).1.tag = o.tag := by
  unfold bookedOrder
  split <;> rfl

theorem bookedCarriage_key (r : CarriageRec) :
    (bookedCarriage r).1.originReach = r.originReach ∧ (bookedCarriage r).1.originTag = r.originTag := by
  unfold bookedCarriage
  split <;> exact ⟨rfl, rfl⟩

theorem eventRank_lt (k : OrderEventKind) : eventRank k < 3 := by cases k <;> decide

theorem eventRank_inj {j k : OrderEventKind} (h : eventRank j = eventRank k) : j = k := by
  cases j <;> cases k <;> first | rfl | exact absurd h (by decide)

theorem mem_dueOrders {n : Nat} {u : OrderUnit} {e : OrderEvent} :
    e ∈ dueOrders n u ↔ e ∉ u.raised ∧ ∃ o ∈ u.table, (bookedOrder o).1 = e ∧ (bookedOrder o).2 ≤ n := by
  unfold dueOrders
  rw [mem_dueList]
  simp only [Bool.and_eq_true, decide_eq_true_eq, Bool.not_eq_true', ← Bool.not_eq_true, List.contains_iff_mem]
  constructor
  · rintro ⟨o, ho, ⟨hreached, hnew⟩, rfl⟩
    exact ⟨hnew, o, ho, rfl, hreached⟩
  · rintro ⟨hnew, o, ho, rfl, hreached⟩
    exact ⟨o, ho, ⟨hreached, hnew⟩, rfl⟩

theorem mem_dueCarriage {n : Nat} {u : CarriageUnit} {e : CarriageEvent} :
    e ∈ dueCarriage n u ↔ e ∉ u.raised ∧ ∃ r ∈ u.list, (bookedCarriage r).1 = e ∧ (bookedCarriage r).2 ≤ n := by
  unfold dueCarriage
  rw [mem_dueList]
  simp only [Bool.and_eq_true, decide_eq_true_eq, Bool.not_eq_true', ← Bool.not_eq_true, List.contains_iff_mem]
  constructor
  · rintro ⟨r, hr, ⟨hreached, hnew⟩, rfl⟩
    exact ⟨hnew, r, hr, rfl, hreached⟩
  · rintro ⟨hnew, r, hr, rfl, hreached⟩
    exact ⟨r, hr, ⟨hreached, hnew⟩, rfl⟩

/-- At one second ends come before hold deadlines and those before starts, each by tag (R72). -/
theorem dueOrders_ascends {s : State} (hs : OrderLaw s) (n : Nat) :
    (dueOrders n s.orders).Pairwise fun e f => e ≠ f ∧ ∀ o ∈ s.orders.table, ∀ x ∈ s.orders.table, ∀ a b,
      bookedOrder o = (e, a) → bookedOrder x = (f, b) →
      a < b ∨ (a = b ∧ (eventRank e.kind < eventRank f.kind ∨ (e.kind = f.kind ∧ e.tag < f.tag))) := by
  obtain ⟨-, hapart, htags⟩ := hs
  have hdistinct : s.orders.table.Pairwise fun o x => (bookedOrder o).1 ≠ (bookedOrder x).1 :=
    hapart.imp fun {o x} h heq => by
      have htag := congrArg OrderEvent.tag heq
      rw [bookedOrder_tag, bookedOrder_tag] at htag
      exact absurd htag (Nat.ne_of_lt h.1)
  refine (dueList_ascends hdistinct).imp fun {e f} h => ⟨h.1, fun o ho x hx a b hoe hxf => ?_⟩
  have hkey : (a * 3 + eventRank e.kind) * 256 + e.tag ≤ (b * 3 + eventRank f.kind) * 256 + f.tag :=
    h.2 o ho x hx a b hoe hxf
  have hetag : e.tag = o.tag := by rw [← bookedOrder_tag o, hoe]
  have hftag : f.tag = x.tag := by rw [← bookedOrder_tag x, hxf]
  have htag : e.tag ≤ 255 ∧ f.tag ≤ 255 := ⟨hetag ▸ (htags o ho).2, hftag ▸ (htags x hx).2⟩
  have hrank := eventRank_lt e.kind
  have hrank' := eventRank_lt f.kind
  by_cases hkind : eventRank e.kind = eventRank f.kind
  · have hne : a = b → e.tag ≠ f.tag := fun _ heq => h.1 (by
      cases e
      cases f
      exact congrArg₂ OrderEvent.mk (eventRank_inj hkind) heq)
    rw [hkind] at hkey ⊢
    refine (Nat.lt_or_ge a b).imp_right fun hge => ?_
    have hab : a = b := by omega
    have := hne hab
    exact ⟨hab, .inr ⟨eventRank_inj hkind, by omega⟩⟩
  · refine (Nat.lt_or_ge a b).imp_right fun hge => ?_
    have hab : a = b := by omega
    exact ⟨hab, .inl (by omega)⟩

/-- At one second the carriage unit's events come in list order (R98). -/
theorem dueCarriage_ascends {s : State} (hs : CarriageLaw s) (n : Nat) :
    (dueCarriage n s.carriage).Pairwise fun e f => e ≠ f ∧ ∀ r ∈ s.carriage.list, ∀ x ∈ s.carriage.list, ∀ a b,
      bookedCarriage r = (e, a) → bookedCarriage x = (f, b) →
      a < b ∨ (a = b ∧ (r.originReach < x.originReach
        ∨ (r.originReach = x.originReach ∧ r.originTag < x.originTag))) := by
  obtain ⟨-, hapart, hranges⟩ := hs
  have hdistinct : s.carriage.list.Pairwise fun r x => (bookedCarriage r).1 ≠ (bookedCarriage x).1 :=
    hapart.imp fun {r x} h heq => by
      obtain ⟨hreach, htag⟩ := bookedCarriage_key r
      obtain ⟨hreach', htag'⟩ := bookedCarriage_key x
      rw [heq] at hreach htag
      omega
  have hunique : ∀ r ∈ s.carriage.list, ∀ x ∈ s.carriage.list,
      r.originReach = x.originReach → r.originTag = x.originTag → r = x := by
    intro r hr x hx hreach htag
    by_contra hne
    have hsymm : Std.Symm fun r x : CarriageRec => r.originReach ≠ x.originReach ∨ r.originTag ≠ x.originTag :=
      ⟨fun _ _ h => h.imp Ne.symm Ne.symm⟩
    have hall : s.carriage.list.Pairwise fun r x => r.originReach ≠ x.originReach ∨ r.originTag ≠ x.originTag :=
      hapart.imp fun {r x} h => by omega
    obtain h | h := hall.forall hr hx hne
    · exact h hreach
    · exact h htag
  refine (dueList_ascends hdistinct).imp fun {e f} h => ⟨h.1, fun r hr x hx a b hre hxf => ?_⟩
  have hkey : (a * 256 + e.originReach) * 256 + e.originTag ≤ (b * 256 + f.originReach) * 256 + f.originTag :=
    h.2 r hr x hx a b hre hxf
  obtain ⟨hreach, htag⟩ := bookedCarriage_key r
  obtain ⟨hreach', htag'⟩ := bookedCarriage_key x
  rw [hre] at hreach htag
  rw [hxf] at hreach' htag'
  have hne : ¬ (r.originReach = x.originReach ∧ r.originTag = x.originTag) := fun ⟨h1, h2⟩ => h.1 (by
    have hrx := hunique r hr x hx h1 h2
    rw [hrx] at hre
    exact congrArg Prod.fst (hre.symm.trans hxf))
  have hr' := hranges r hr
  have hx' := hranges x hx
  dsimp only at hreach htag hreach' htag'
  rw [hreach, htag, hreach', htag'] at hkey
  omega

theorem raiseDue_unset {s : State} (h : s.clock.status = .unset) : raiseDue s = s := by
  unfold raiseDue
  rw [h]

theorem raiseDue_set {s : State} (h : s.clock.status = .set) :
    raiseDue s = { s with
      clock := { s.clock with frostEndRaised := s.clock.frostEndRaised || frostDue s.clock }
      orders := { s.orders with raised := s.orders.raised ++ dueOrders s.clock.seconds s.orders }
      carriage := { s.carriage with raised := s.carriage.raised ++ dueCarriage s.clock.seconds s.carriage } } := by
  unfold raiseDue
  rw [h]

theorem frostDue_iff {c : Clock} : frostDue c = true ↔ ∃ w, c.frost = some w ∧ w.stop ≤ c.seconds := by
  unfold frostDue
  cases c.frost <;> simp

/-! ## Ticks (R55, R56) -/

theorem exec_tick {s : State} (hrun : Runs s) : exec .tick s = .next (tick s) := by
  show Host.Outcome.next (whileRunning tick s) = _
  rw [whileRunning_runs hrun]

theorem tick_unset {s : State} (h : s.clock.status = .unset) : tick s = countRun s := by
  unfold tick
  rw [h]

theorem tick_set {s : State} (h : s.clock.status = .set) : tick s = raiseDue (advance (countRun s)) := by
  unfold tick
  rw [h]

theorem advance_counts {s : State} (h : s.clock.seconds + 1 < s.tables.reach.periodLength) :
    advance s = { s with clock := { s.clock with seconds := s.clock.seconds + 1 } } := if_neg (Nat.not_le.2 h)

theorem advance_wraps {s : State} (h : s.tables.reach.periodLength ≤ s.clock.seconds + 1) : advance s = wrap s :=
  if_pos h

/-- Settles O28: by the clock's status and the period length, and by what the times raised are. -/
theorem tickCountsWrapsAndRaises : Obligations.TickCountsWrapsAndRaises := by
  refine ⟨fun s hrun => ?_, fun s => ?_, fun o => ?_, fun r => ?_⟩
  · intro run len
    refine ⟨fun hunset => ?_, fun hset hcounts => ?_, fun hset hwraps => ?_⟩
    · rw [exec_tick hrun, tick_unset hunset]
      rfl
    · rw [exec_tick hrun, tick_set hset, advance_counts (by exact hcounts)]
      rfl
    · rw [exec_tick hrun, tick_set hset, advance_wraps (by exact hwraps)]
      rfl
  · intro rank
    refine ⟨raiseDue_unset, fun hset => ?_⟩
    have hraised := raiseDue_set hset
    refine ⟨dueOrders s.clock.seconds s.orders, dueCarriage s.clock.seconds s.carriage, ?_, fun e => mem_dueOrders,
      fun e => mem_dueCarriage, fun hs => ?_, fun hs => ?_, ?_⟩
    · rw [hraised]
    · have hascends := dueOrders_ascends hs s.clock.seconds
      have hrank : eventRank = rank := by
        funext k
        cases k <;> rfl
      rw [hrank] at hascends
      exact ⟨hascends.imp fun h => h.1, hascends.imp fun h => h.2⟩
    · have hascends := dueCarriage_ascends hs s.clock.seconds
      exact ⟨hascends.imp fun h => h.1, hascends.imp fun h => h.2⟩
    · rw [hraised, Bool.or_eq_true, frostDue_iff]
  · cases hstate : o.state <;> simp [bookedOrder, hstate]
  · cases hstate : r.state <;> simp [bookedCarriage, hstate]

end Sys2Proof.Machine

/-! PROOFS. Orders that are refused (O34). -/

namespace Sys2Proof.Machine

open Sys2Proof.Safety

theorem eq_false_of_iff {b : Bool} {p : Prop} (h : b = true ↔ p) (hp : ¬ p) : b = false :=
  Bool.eq_false_iff.2 fun hb => hp (h.1 hb)

theorem parseOrder_malformed {body : List Byte}
    (h : body.length ≠ 12 ∨ field body 0 1 = 0 ∨ 1 < field body 3 1 ∨ field body 7 3 < 900 ∨ 259200 < field body 7 3) :
    parseOrder body = none := by
  refine if_neg fun ⟨hlength, hterminal, hclass, hshort, hlong⟩ => ?_
  omega

section

variable {t : Turnout} {m : Bool} {body : List Byte} {s : State}

theorem sendRefused_assigned (h : ownReach s ≠ 0) (t : Turnout) (terminal tag refusing reason : Nat) (m : Bool) :
    sendRefused t terminal tag refusing reason m s = place .d (mkFrame ⟨ownReach s, t.val + 1⟩ ⟨ownReach s, 0⟩ 0x23
      (be 1 terminal ++ be 1 tag ++ be 1 2 ++ be 1 refusing ++ be 1 reason) m) s :=
  sendNotice_assigned h _ _ _

theorem exec_order_malformed (hrun : Runs s) (ha : Assigned s) (h : parseOrder body = none) :
    exec (.order t m body) s = .next (place .d (mkFrame ⟨ownReach s, t.val + 1⟩ ⟨ownReach s, 0⟩ 0x23
      (be 1 (body.headD 0).toNat ++ be 1 0 ++ be 1 2 ++ be 1 (ownReach s) ++ be 1 1) false) s) := by
  rw [exec_order hrun ha, takeOrder, h, ← sendRefused_assigned (assigned_ne_zero ha)]
  rfl

/-- An ORDER that a check refuses is answered with the check's reason and changes nothing else. -/
theorem exec_order_refused {q : OrderRequest} {reason : Nat} (hrun : Runs s) (ha : Assigned s)
    (hbody : parseOrder body = some q) (h : refusalReason t q s = some reason) :
    exec (.order t m body) s = .next (place .d (mkFrame ⟨ownReach s, t.val + 1⟩ ⟨ownReach s, 0⟩ 0x23
      (be 1 q.terminal ++ be 1 0 ++ be 1 2 ++ be 1 (ownReach s) ++ be 1 reason) false) s) := by
  rw [exec_order hrun ha, ← sendRefused_assigned (assigned_ne_zero ha)]
  simp only [takeOrder, hbody, h]

end

section

variable {t : Turnout} {q : OrderRequest} {s : State}

theorem refusalReason_unset (h : s.clock.status = .unset) : refusalReason t q s = some 2 := if_pos h

theorem refusalReason_supply (h : s.clock.status = .set) (h' : s.supply.status ≠ .normal) : refusalReason t q s = some 3 := by
  simp [refusalReason, h, h']

theorem refusalReason_account (h : s.clock.status = .set) (h' : s.supply.status = .normal)
    (hslot : activeSlot q.account s = none) : refusalReason t q s = some 4 := by
  simp [refusalReason, h, h', hslot]

theorem findSlot_some {accounts : Vector AccountEntry 64} {number : Nat} {i : Fin 64} (h : findSlot accounts number = some i) :
    number ≠ 0 ∧ (getAt accounts i).number = number := by
  simpa using List.find?_some h

theorem activeSlot_none {account : Nat}
    (h : ∀ i, (getAt s.tables.accounts i).number = account → account ≠ 0 → (getAt s.tables.accounts i).active = false) :
    activeSlot account s = none := by
  unfold activeSlot
  cases hslot : findSlot s.tables.accounts account with
  | none => rfl
  | some i =>
    obtain ⟨hnumber, hheld⟩ := findSlot_some hslot
    rw [Option.filter_some, h i hheld hnumber]
    rfl

end

/-- Settles O34: check by check, each by what it asks. -/
theorem orderIsRefused : Obligations.OrderIsRefused := by
  intro t m body s hrun hassigned refused
  refine ⟨fun h => exec_order_malformed hrun hassigned (parseOrder_malformed h), fun q hbody => ?_⟩
  have hrefused : ∀ {reason}, refusalReason t q s = some reason → refused q.terminal reason := fun h =>
    exec_order_refused hrun hassigned hbody h
  refine ⟨fun h => hrefused (refusalReason_unset h), fun h h' => hrefused (refusalReason_supply h h'),
    fun hclock hsupply => ⟨fun h => hrefused (refusalReason_account hclock hsupply (activeSlot_none h)), ?_⟩⟩
  intro i hnumber hheld hunique hactive a e g r stop ready permitted rate start apart frost volume draw inflow
  have hslot : activeSlot q.account s = some i := activeSlot_of_found (findSlot_of_unique hnumber hheld hunique) hactive
  have hlater : ∀ {reason}, laterChecks t q i s = some reason → refused q.terminal reason := fun h =>
    hrefused ((refusalReason_of_active hclock hsupply hslot).trans h)
  have hready : turnoutReady t s = true ↔ ready := turnoutReady_iff
  have hpermitted : permits (getAt s.tables.accounts i).permitted t = true ↔ permitted := Iff.rfl
  have hrate : (decide (1 ≤ q.rate) && decide (q.rate ≤ (getAt s.tables.turnouts t).maxRate)) = true ↔ rate := by
    rw [Bool.and_eq_true, decide_eq_true_iff, decide_eq_true_iff]
  have hstart : startOk q s = true ↔ start := startOk_iff
  have hapart : windowFree t q s = true ↔ apart := windowFree_iff
  have hfrost : frostOk q (getAt s.tables.accounts i) s = true ↔ frost := frostOk_iff
  have hvolume : accountDemand i q s ≤ admissionLimit (getAt s.tables.accounts i) q.cls ↔ volume := by
    rw [admissionLimit_eq]
    rfl
  have hdraw : drawFits q s = true ↔ draw := drawFits_iff
  have hinflow : fits q.rate (shifted s q.start) (shifted s (q.start + q.duration)) s = true ↔ inflow := fits_iff
  refine ⟨fun h => ?_, fun h1 h => ?_, fun h1 h2 h => ?_, fun h1 h2 h3 h => ?_, fun h1 h2 h3 h4 h => ?_,
    fun h1 h2 h3 h4 h5 h => ?_, fun h1 h2 h3 h4 h5 h6 h => ?_, fun h1 h2 h3 h4 h5 h6 h7 h => ?_,
    fun h1 h2 h3 h4 h5 h6 h7 h8 h => ?_, fun h1 h2 h3 h4 h5 h6 h7 h8 h9 h => ?_⟩
  · exact hlater (by simp [laterChecks, eq_false_of_iff hready h])
  · exact hlater (by simp [laterChecks, hready.2 h1, eq_false_of_iff hpermitted h])
  · exact hlater (by simp [laterChecks, hready.2 h1, hpermitted.2 h2, eq_false_of_iff hrate h])
  · exact hlater (by simp [laterChecks, hready.2 h1, hpermitted.2 h2, hrate.2 h3, eq_false_of_iff hstart h])
  · exact hlater (by simp [laterChecks, hready.2 h1, hpermitted.2 h2, hrate.2 h3, hstart.2 h4,
      eq_false_of_iff hapart h])
  · exact hlater (by simp [laterChecks, hready.2 h1, hpermitted.2 h2, hrate.2 h3, hstart.2 h4, hapart.2 h5,
      eq_false_of_iff hfrost h])
  · exact hlater (by simp [laterChecks, hready.2 h1, hpermitted.2 h2, hrate.2 h3, hstart.2 h4, hapart.2 h5,
      hfrost.2 h6, Nat.not_le.1 fun hle => h (hvolume.1 hle)])
  · exact hlater (by simp [laterChecks, hready.2 h1, hpermitted.2 h2, hrate.2 h3, hstart.2 h4, hapart.2 h5,
      hfrost.2 h6, Nat.not_lt.2 (hvolume.2 h7), eq_false_of_iff hdraw h])
  · exact hlater (by simp [laterChecks, hready.2 h1, hpermitted.2 h2, hrate.2 h3, hstart.2 h4, hapart.2 h5,
      hfrost.2 h6, Nat.not_lt.2 (hvolume.2 h7), hdraw.2 h8, eq_false_of_iff hinflow h])
  · exact hlater (by simp [laterChecks, hready.2 h1, hpermitted.2 h2, hrate.2 h3, hstart.2 h4, hapart.2 h5,
      hfrost.2 h6, Nat.not_lt.2 (hvolume.2 h7), hdraw.2 h8, hinflow.2 h9, h])

end Sys2Proof.Machine

/-! PROOFS. A DEMAND passing up (O40). -/

namespace Sys2Proof.Machine

open Sys2Proof.Safety

theorem parseDemand_foreign {n : Nat} {body : List Byte}
    (h : body.length ≠ 14 ∨ field body 0 1 ≤ n ∨ 249 < field body 0 1 ∨ 1 < field body 2 1 ∨ field body 9 2 = 0
      ∨ 1000 < field body 9 2 ∨ field body 6 3 < field body 3 3) : parseDemand n body = none := by
  refine if_neg fun ⟨hlength, hreach, hreach', hclass, hrate, hrate', hwindow⟩ => ?_
  omega

theorem parseDemand_bytes {n : Nat} {d : DemandBody} (hreach : n < d.originReach) (hreach' : d.originReach ≤ 249)
    (htag : d.tag < 256) (hwindow : d.start ≤ d.stop) (hstop : d.stop < 16777216) (hrate : 1 ≤ d.rate)
    (hrate' : d.rate ≤ 1000) (hhold : d.holdDeadline < 16777216) : parseDemand n (demandBytes d) = some d := by
  have hclass := classCode_le_one d.cls
  have hfields : field (demandBytes d) 0 1 = d.originReach ∧ field (demandBytes d) 1 1 = d.tag
      ∧ field (demandBytes d) 2 1 = classCode d.cls ∧ field (demandBytes d) 3 3 = d.start
      ∧ field (demandBytes d) 6 3 = d.stop ∧ field (demandBytes d) 9 2 = d.rate
      ∧ field (demandBytes d) 11 3 = d.holdDeadline := by
    simp (disch := omega) only [demandBytes, List.append_assoc, field_be_append, field_skip, field_be, Nat.reduceSub,
      and_self]
  obtain ⟨h0, h1, h2, h3, h6, h9, h11⟩ := hfields
  rw [parseDemand, h0, h1, h2, h3, h6, h9, h11, classOf_classCode,
    if_pos ⟨by simp [demandBytes], hreach, hreach', hclass, hrate, hrate', hwindow⟩]

theorem forward_demand (dst src : Addr) (m : Bool) (b : List Byte) (s : State) :
    forward .u (mkFrame dst src 0x51 b m) s = place .u (mkFrame dst src 0x51 b m) s := rfl

section

variable {f : Frame} {d : DemandBody} {s : State}

theorem climbDemand_foreign (h : parseDemand (ownReach s) f.body = none) : climbDemand f s = forward .u f (countUnmatched s) := by
  simp only [climbDemand, passDemand, h]

theorem climbDemand_refused {reason : Nat} (h : parseDemand (ownReach s) f.body = some d)
    (hc : demandCase (ownWindow s d) s = .refused reason) :
    climbDemand f s = refuseDemand (ownWindow s d) reason s := by
  simp only [climbDemand, passDemand, h, hc]

theorem climbDemand_withheld (h : parseDemand (ownReach s) f.body = some d)
    (hc : demandCase (ownWindow s d) s = .withheld) : climbDemand f s = countUnmatched s := by
  simp only [climbDemand, passDemand, h, hc]

theorem climbDemand_known (h : parseDemand (ownReach s) f.body = some d) (hc : demandCase (ownWindow s d) s = .known) :
    climbDemand f s = forward .u (rebody (demandBytes (ownWindow s d)) f) s := by
  simp only [climbDemand, passDemand, h, hc]

theorem climbDemand_booked (h : parseDemand (ownReach s) f.body = some d) (hc : demandCase (ownWindow s d) s = .booked) :
    climbDemand f s = forward .u (rebody (demandBytes (ownWindow s d)) f) (bookDemand (ownWindow s d) s) := by
  simp only [climbDemand, passDemand, h, hc]

theorem refuseDemand_below (h : ownReach s ≠ 0) (hreach : ownReach s < d.originReach) (reason : Nat) :
    refuseDemand d reason s = raise .carriageRefused (place .d
      (mkFrame ⟨d.originReach, 0⟩ ⟨ownReach s, 0⟩ 0x53
        (be 1 d.originReach ++ be 1 d.tag ++ be 1 (ownReach s) ++ be 1 reason) (isFrost d.cls)) s) := by
  have hqueue : queueFor ⟨d.originReach, 0⟩ s = .d := if_neg (by dsimp only; omega)
  have hown : ownAddr s = ⟨ownReach s, 0⟩ := if_neg h
  rw [refuseDemand, send, hqueue, originate, hown]

theorem demandCase_set (hset : s.clock.status = .set) (hhold : s.clock.seconds < d.holdDeadline) :
    demandCase d s = if (findCarriage d.originReach d.tag s).isSome then .known
      else if !fits d.rate d.start d.stop s then .refused 13
      else if 64 ≤ s.carriage.list.length then .refused 15 else .booked := by
  unfold demandCase now
  rw [if_neg (by rw [hset]; decide), if_neg (Nat.not_le.2 hhold)]
  rfl

theorem findCarriage_isSome {reach tag : Nat} :
    (findCarriage reach tag s).isSome = true ↔ ∃ r ∈ s.carriage.list, r.originReach = reach ∧ r.originTag = tag := by
  simp only [findCarriage, List.find?_isSome, hasKey_iff]

end

/-- Settles O40: by the cases of a DEMAND, in their order. -/
theorem demandPassesUp : Obligations.DemandPassesUp := by
  refine ⟨fun src dst m body s hrun hassigned hdst hstation hbody => ?_,
    fun src dst m d s hrun hassigned hdst hstation hreach hreach' htag hwindow hstop hrate hrate' hhold => ?_⟩
  · rw [exec_demand hrun hassigned hdst hstation, climbDemand_foreign (parseDemand_foreign hbody), forward_demand]
  intro lag a b key arrives onward refused record
  have hparse : parseDemand (ownReach s) (mkFrame dst src 0x51 (demandBytes d) m).body = some d :=
    parseDemand_bytes hreach hreach' htag hwindow hstop hrate hrate' hhold
  have harrives : arrives = .next (climbDemand (mkFrame dst src 0x51 (demandBytes d) m) s) :=
    exec_demand hrun hassigned hdst hstation m _
  have hrefused : ∀ reason, demandCase (ownWindow s d) s = .refused reason → arrives = .next (refused reason) :=
    fun reason hc => by
      rw [harrives, climbDemand_refused hparse hc,
        refuseDemand_below (d := ownWindow s d) (assigned_ne_zero hassigned) hreach]
      rfl
  refine ⟨fun hunset => hrefused 2 (if_pos hunset), fun hset hpassed => ?_, fun hset hheld => ?_⟩
  · have hc : demandCase (ownWindow s d) s = .withheld :=
      (if_neg (by rw [hset]; decide)).trans (if_pos hpassed)
    rw [harrives, climbDemand_withheld hparse hc]
  have hcase := demandCase_set (d := ownWindow s d) hset hheld
  have hknown : (findCarriage (ownWindow s d).originReach (ownWindow s d).tag s).isSome = true
      ↔ ∃ r ∈ s.carriage.list, key r := findCarriage_isSome
  have hnew : (∀ r ∈ s.carriage.list, ¬ key r) →
      ¬ (findCarriage (ownWindow s d).originReach (ownWindow s d).tag s).isSome = true := fun h hc =>
    have ⟨r, hr, hkey⟩ := hknown.1 hc
    h r hr hkey
  refine ⟨fun h => ?_, fun h hfits => ?_, fun h hfits hfull => ?_, fun h hfits hroom => ?_⟩
  · rw [harrives, climbDemand_known hparse (hcase.trans (if_pos (hknown.2 h)))]
    rfl
  · refine hrefused 13 (hcase.trans ((if_neg (hnew h)).trans (if_pos ?_)))
    rw [show fits (ownWindow s d).rate (ownWindow s d).start (ownWindow s d).stop s = false from hfits]
    rfl
  · refine hrefused 15 (hcase.trans ((if_neg (hnew h)).trans ((if_neg ?_).trans (if_pos hfull))))
    rw [show fits (ownWindow s d).rate (ownWindow s d).start (ownWindow s d).stop s = true from hfits]
    decide
  · have hbooked : demandCase (ownWindow s d) s = .booked := by
      refine hcase.trans ((if_neg (hnew h)).trans ((if_neg ?_).trans (if_neg (Nat.not_le.2 hroom))))
      rw [show fits (ownWindow s d).rate (ownWindow s d).start (ownWindow s d).stop s = true from hfits]
      decide
    rw [harrives, climbDemand_booked hparse hbooked]
    rfl

end Sys2Proof.Machine

/-! PROOFS. The ends of store operations (O50). -/

namespace Sys2Proof.Machine

open Sys2Proof.Safety

theorem exec_storeOperationEnd {s : State} (hrun : Runs s) (passed : Bool) :
    exec (.storeOperationEnd passed) s = .next (operationEnd passed s) := by
  show Host.Outcome.next (whileRunning _ s) = _
  rw [whileRunning_runs hrun]

/-! ## What an operation leaves in the store (R178, R179) -/

theorem holdsCopy_programRegion (h : Header) (i : Image) (g : Regions) : HoldsCopy (programRegion true h i g) h i := by
  cases i <;> rfl

theorem programmed_false_incomplete {α : Type} (bytes : α → List Byte) (h : Header) (x : α) :
    Incomplete bytes (programmed bytes false h x) := by
  intro h' c hc
  simp [Complete, programmed] at hc

theorem programRegion_false_lacks (h : Header) (i : Image) (g : Regions) :
    LacksRegion (programRegion false h i g) (imageRegion i) := by
  intro h' j hj
  cases i <;> cases j <;> cases hj <;> exact programmed_false_incomplete _ _ _ h' _

theorem eraseRegion_programRegion (mark : Bool) (h : Header) (i : Image) (g : Regions) :
    eraseRegion (imageRegion i) (programRegion mark h i g) = eraseRegion (imageRegion i) g := by
  cases i <;> rfl

/-! ## The operations that end (R181, R189) -/

/-- The state that the end of an operation leaves before what follows it: the outcome settled, a failure raised, the commit
answered. -/
def settledEnd (op : StoreOp) (passed : Bool) (s : State) : State :=
  sendCommitEnd op passed (raiseFailed passed (settleOp op passed s))

theorem settledEnd_eq (op : StoreOp) (passed : Bool) (s : State) :
    settledEnd op passed s = match op.commit with
      | none => raiseFailed passed (settleOp op passed s)
      | some q => place .u (mkFrame ⟨0, 0⟩ (ownAddr s) 0x7D
          ([q, 0x74, if passed then 0 else 4] ++ be 1 (regionCode (imageRegion op.image))) false)
          (raiseFailed passed (settleOp op passed s)) := by
  unfold settledEnd sendCommitEnd
  cases op.commit with
  | none => rfl
  | some q => cases passed <;> exact sendOffice_eq _ _ _ _

theorem settledEnd_store (op : StoreOp) (passed : Bool) (s : State) :
    (settledEnd op passed s).store = (settleOp op passed s).store := by
  rw [settledEnd_eq]
  split <;> cases passed <;> rfl

theorem settledEnd_wipe (op : StoreOp) (passed : Bool) (s : State) :
    (settledEnd op passed s).store.wipe = s.store.wipe := by
  rw [settledEnd_store, settleOp]

theorem settledEnd_waiting (op : StoreOp) (passed : Bool) (s : State) :
    (settledEnd op passed s).store.waiting = s.store.waiting := by
  rw [settledEnd_store, settleOp]

section

variable {op : StoreOp} {s : State} (hrun : Runs s) (hop : s.store.op = some op)

include hrun hop

theorem exec_end_own (hwipe : s.store.wipe = none ∨ s.store.wipe = some .waiting) (passed : Bool) :
    exec (.storeOperationEnd passed) s = .next (afterOp op (settledEnd op passed s)) := by
  rw [exec_storeOperationEnd hrun]
  obtain hwipe | hwipe := hwipe <;> rw [operationEnd, hwipe, hop] <;> rfl

theorem exec_end_restart (hwipe : s.store.wipe = none) (hserves : op.servesRestart = true) (passed : Bool) :
    exec (.storeOperationEnd passed) s = .next (restartReading .commanded (settledEnd op passed s)) := by
  rw [exec_end_own hrun hop (.inl hwipe), afterOp, if_pos hserves]

theorem exec_end_wipe (hwipe : s.store.wipe = some .waiting) (hserves : op.servesRestart = false) (passed : Bool) :
    exec (.storeOperationEnd passed) s = .next (beginErase .accountState (settledEnd op passed s)) := by
  rw [exec_end_own hrun hop (.inr hwipe), afterOp, hserves, settledEnd_wipe, hwipe]
  rfl

theorem exec_end_waiting (hwipe : s.store.wipe = none) (hserves : op.servesRestart = false) (passed : Bool) :
    exec (.storeOperationEnd passed) s
      = .next (if s.store.waiting then beginSnapshot (settledEnd op passed s) else settledEnd op passed s) := by
  rw [exec_end_own hrun hop (.inl hwipe), afterOp, hserves, settledEnd_wipe, hwipe, settledEnd_waiting]
  rfl

theorem exec_end_written {r : RegionId} (hwipe : s.store.wipe = some (.writing r)) (passed : Bool) :
    exec (.storeOperationEnd passed) s = .next (wipeWriteEnd r op passed s) := by
  rw [exec_storeOperationEnd hrun, operationEnd, hwipe, hop]

end

theorem exec_end_erased {s : State} {r : RegionId} (hrun : Runs s) (hwipe : s.store.wipe = some (.erasing r))
    (passed : Bool) : exec (.storeOperationEnd passed) s = .next (afterErase r s) := by
  rw [exec_storeOperationEnd hrun, operationEnd, hwipe]

theorem afterErase_next {r r' : RegionId} (h : nextRegion r = some r') (s : State) : afterErase r s = beginErase r' s := by
  rw [afterErase, h]

theorem afterWipeWrite_next {r r' : RegionId} (h : nextRegion r = some r') (s : State) :
    afterWipeWrite r s = beginWipeWrite r' s := by
  rw [afterWipeWrite, h]

/-- The wipe works on a region. -/
theorem wiping_iff {s : State} :
    wiping s = true ↔ ∃ r, s.store.wipe = some (.erasing r) ∨ s.store.wipe = some (.writing r) := by
  unfold wiping
  cases s.store.wipe with
  | none => simp
  | some w => cases w <;> simp

/-- Settles O50: by the stage of the wipe and what waits. -/
theorem storeOperationEnds : Obligations.StoreOperationEnds := by
  refine ⟨fun op s hrun hop => ?_, fun r b s hrun hwipe => ?_, rfl, fun r s => rfl, fun r s hseq => ?_, fun s hseq => ?_,
    fun s => ⟨fun h => ?_, fun h hop => ?_, fun h hop => ?_⟩⟩
  · intro regions settled ended reply passed failed
    have hpassed : settledEnd op true s = passed := settledEnd_eq _ _ _
    have hfailed : settledEnd op false s = failed := settledEnd_eq _ _ _
    refine ⟨⟨holdsCopy_programRegion _ _ _, programRegion_false_lacks _ _ _,
      fun mark => eraseRegion_programRegion mark _ _ _⟩, fun hwipe hserves => ?_, fun hwipe hserves => ?_,
      fun hwipe hserves => ?_, fun r hwipe => ?_⟩
    · have hend := exec_end_waiting hrun hop hwipe hserves
      refine ⟨fun hwaits => ?_, fun hwaits => ?_⟩ <;> simp only [hwaits] at hend <;> rw [← hpassed, ← hfailed] <;>
        exact ⟨hend true, hend false⟩
    · rw [← hpassed, ← hfailed]
      exact ⟨exec_end_restart hrun hop hwipe hserves true, exec_end_restart hrun hop hwipe hserves false⟩
    · rw [← hpassed, ← hfailed]
      exact ⟨exec_end_wipe hrun hop hwipe hserves true, exec_end_wipe hrun hop hwipe hserves false⟩
    · intro written x noted
      have hwritten : ended true = .next (afterWipeWrite r written) := (exec_end_written hrun hop hwipe true).trans (by
        simp only [wipeWriteEnd, Bool.not_true, Bool.or_false]
        rfl)
      have hnoted : ended false = .next (afterWipeWrite r noted) := (exec_end_written hrun hop hwipe false).trans (by
        simp only [wipeWriteEnd, Bool.not_false, Bool.or_true]
        rfl)
      refine ⟨fun r' hr => ?_, fun hr => ?_⟩
      · rw [hwritten, hnoted, afterWipeWrite_next hr, afterWipeWrite_next hr]
        exact ⟨rfl, rfl⟩
      · subst hr
        exact ⟨hwritten, hnoted⟩
  · refine ⟨fun r' hr => ?_, fun hr => ?_⟩
    · rw [exec_end_erased hrun hwipe, afterErase_next hr]
    · subst hr
      exact exec_end_erased hrun hwipe b
  · exact (beginWrite_next (by exact hseq) _ _ _ _).trans (by cases r <;> rfl)
  · rw [beginSnapshot_next hseq]
    rfl
  · exact if_pos (wiping_iff.2 h)
  · exact requestSnapshot_idle (Bool.eq_false_iff.2 fun hw => h (wiping_iff.1 hw)) hop
  · exact requestSnapshot_waits (Bool.eq_false_iff.2 fun hw => h (wiping_iff.1 hw)) hop

end Sys2Proof.Machine

/-! PROOFS. The passages of the supply (O51). -/

namespace Sys2Proof.Machine

open Sys2Proof.Safety

/-! ## The levels below the warning level (R184, R185) -/

/-- The passages that follow the comparison with the warning level. -/
def lowerPassages (s : State) : State := restartCheck (retentionCheck (backupCheck s))

theorem supplyMoves_eq (v : Nat) (s : State) : supplyMoves v s = lowerPassages (compareSupply (setLevel v s)) := rfl

theorem lowerPassages_running {s : State} (hstatus : s.supply.status ≠ .backup) (hlevel : 9600 ≤ s.supply.level) :
    lowerPassages s = s := by
  have hbackup : backupCheck s = s := if_neg fun h => absurd h.2 (Nat.not_lt.2 hlevel)
  have hretention : retentionCheck s = s := if_neg fun h => hstatus h.1
  rw [lowerPassages, hbackup, hretention]
  exact if_neg fun h => hstatus h.1

/-- A part that is stopped, or stops, below the restart level. -/
theorem lowerPassages_below {s x : State} (hstop : backupCheck s = x) (hstatus : x.supply.status = .backup)
    (hlevel : x.supply.level ≤ 10200) :
    lowerPassages s = { x with supply := { x.supply with
      retention := if x.supply.level ≤ 6000 then false else x.supply.retention } } := by
  have hrestart : ∀ b, restartCheck { x with supply := { x.supply with retention := b } }
      = { x with supply := { x.supply with retention := b } } := fun b => if_neg fun h => absurd h.2 (Nat.not_lt.2 hlevel)
  rw [lowerPassages, hstop]
  by_cases hlow : x.supply.level ≤ 6000
  · rw [retentionCheck, if_pos ⟨hstatus, hlow⟩, hrestart, if_pos hlow]
  · rw [retentionCheck, if_neg fun h => hlow h.2, if_neg hlow]
    exact hrestart _

theorem lowerPassages_stops {s : State} (hstatus : s.supply.status ≠ .backup) (hlevel : s.supply.level < 9600) :
    lowerPassages s = { stopPart s with supply := { s.supply with
      status := .backup
      relayClosed := true
      retention := if s.supply.level ≤ 6000 then false else s.supply.retention } } :=
  lowerPassages_below (x := stopPart s) (if_pos ⟨hstatus, hlevel⟩) rfl (by show s.supply.level ≤ 10200; omega)

/-! ## The comparison with the warning level (R182, R183) -/

theorem warnLevel_range (n : Nat) : 10800 ≤ warnLevel n ∧ warnLevel n ≤ 12000 := by
  unfold warnLevel
  split <;> decide

theorem compareSupply_falls {v : Nat} {s : State} (hstatus : s.supply.status = .normal) (hlevel : v < warnNow s) :
    compareSupply (setLevel v s) = passToLow (setLevel v s) := by
  rw [compareSupply_eq]
  exact if_pos ⟨hstatus, hlevel⟩

theorem compareSupply_rises {v : Nat} {s : State} (hstatus : s.supply.status = .low) (hlevel : warnNow s + 300 < v) :
    compareSupply (setLevel v s) = setStatus .normal (setLevel v s) := by
  have hnormal : s.supply.status ≠ .normal := by rw [hstatus]; decide
  rw [compareSupply_eq, if_neg fun h => hnormal h.1]
  exact if_pos ⟨hstatus, hlevel⟩

theorem compareSupply_stays {v : Nat} {s : State} (hnormal : s.supply.status = .normal → warnNow s ≤ v)
    (hlow : s.supply.status = .low → v ≤ warnNow s + 300) : compareSupply (setLevel v s) = setLevel v s := by
  rw [compareSupply_eq, if_neg fun h => absurd h.2 (Nat.not_lt.2 (hnormal h.1))]
  exact if_neg fun h => absurd h.2 (Nat.not_lt.2 (hlow h.1))

theorem compareSupply_stopped {v : Nat} {s : State} (h : s.supply.status = .backup) :
    compareSupply (setLevel v s) = setLevel v s :=
  compareSupply_stays (fun h' => nomatch h.symm.trans h') fun h' => nomatch h.symm.trans h'

/-- The passage to LOW changes the supply's status alone, whether or not the part loads. -/
theorem passToLow_supply (s : State) : (passToLow s).supply = { s.supply with status := .low } := by
  unfold passToLow
  split
  · rfl
  · exact (requestSnapshot_within _).keeps .supply (by decide)

theorem passToLow_loading {s : State} (h : s.loading.isSome = true) : passToLow s = setStatus .low s := if_pos h

/-! ## What a level brings -/

section

variable {v : Nat} {s : State}

theorem supplyMoves_stays (hnormal : s.supply.status = .normal → warnNow s ≤ v)
    (hlow : s.supply.status = .low → v ≤ warnNow s + 300) (hstatus : s.supply.status ≠ .backup) (hv : 9600 ≤ v) :
    supplyMoves v s = setLevel v s := by
  rw [supplyMoves_eq, compareSupply_stays hnormal hlow]
  exact lowerPassages_running hstatus hv

theorem supplyMoves_rises (hstatus : s.supply.status = .low) (hlevel : warnNow s + 300 < v) :
    supplyMoves v s = setStatus .normal (setLevel v s) := by
  have hwarn : 10800 ≤ warnNow s := (warnLevel_range _).1
  rw [supplyMoves_eq, compareSupply_rises hstatus hlevel]
  exact lowerPassages_running (fun h => nomatch h) (by show 9600 ≤ v; omega)

theorem supplyMoves_falls (hstatus : s.supply.status = .normal) (hlevel : v < warnNow s) (hv : 9600 ≤ v) :
    supplyMoves v s = passToLow (setLevel v s) := by
  rw [supplyMoves_eq, compareSupply_falls hstatus hlevel]
  refine lowerPassages_running ?_ ?_ <;> rw [passToLow_supply]
  · exact fun h => nomatch h
  · exact hv

theorem supplyMoves_stops (hstatus : s.supply.status ≠ .backup) (hstays : compareSupply (setLevel v s) = setLevel v s)
    (hv : v < 9600) :
    supplyMoves v s = { stopPart s with supply := { s.supply with
      level := v
      status := .backup
      relayClosed := true
      retention := if v ≤ 6000 then false else s.supply.retention } } := by
  rw [supplyMoves_eq, hstays]
  exact lowerPassages_stops hstatus hv

theorem supplyMoves_fallsThrough (hstatus : s.supply.status = .normal) (hv : v < 9600) :
    supplyMoves v s = { stopPart (passToLow (setLevel v s)) with supply := { (passToLow (setLevel v s)).supply with
      status := .backup
      relayClosed := true
      retention := if v ≤ 6000 then false else s.supply.retention } } := by
  have hwarn : 10800 ≤ warnNow s := (warnLevel_range _).1
  rw [supplyMoves_eq, compareSupply_falls hstatus (by omega), lowerPassages_stops (by rw [passToLow_supply]; exact nofun)
    (by rw [passToLow_supply]; exact hv)]
  simp only [passToLow_supply]
  rfl

theorem supplyMoves_stopped (hstatus : s.supply.status = .backup) (hv : v ≤ 10200) :
    supplyMoves v s = { s with supply := { s.supply with
      level := v
      retention := if v ≤ 6000 then false else s.supply.retention } } := by
  rw [supplyMoves_eq, compareSupply_stopped hstatus]
  exact lowerPassages_below (if_neg fun h => h.1 hstatus) hstatus hv

end

/-- Settles O51: by the status, and by the levels between which the new one stands. -/
theorem supplyPassages : Obligations.SupplyPassages := by
  intro v s warn moves levelled status low stopped
  have hwarn : warnNow s = warn := warnLevel_eq _
  have hrange : 10800 ≤ warn ∧ warn ≤ 12000 := hwarn ▸ warnLevel_range s.tables.reach.warnChoice
  have hmoves : moves = .next (supplyMoves v s) := rfl
  refine ⟨⟨rfl, rfl, rfl, rfl⟩, fun hrun => ?_, fun hstatus => ⟨fun hv => ?_, fun hv hv' => ?_⟩, fun hloading => ?_⟩
  · have hlow : passToLow (setLevel v s) = low := passToLow_running (runs_iff.1 hrun).2
    refine ⟨fun h hv => ?_, fun h hv hv' => ?_, fun h hv => ?_, fun h hv hv' => ?_, fun h hv => ?_, fun h hv => ?_⟩
    · rw [hmoves, supplyMoves_stays (fun _ => by omega) (fun h' => nomatch h.symm.trans h') (by rw [h]; decide) (by omega)]
      rfl
    · rw [hmoves, supplyMoves_falls h (by omega) hv, hlow]
    · rw [hmoves, supplyMoves_rises h (by omega)]
      rfl
    · rw [hmoves, supplyMoves_stays (fun h' => nomatch h.symm.trans h') (fun _ => by omega) (by rw [h]; decide) hv]
      rfl
    · rw [hmoves, supplyMoves_stops (by rw [h]; decide)
        (compareSupply_stays (fun h' => nomatch h.symm.trans h') fun _ => by omega) hv]
      rfl
    · rw [hmoves, supplyMoves_fallsThrough h hv, hlow]
      rfl
  · rw [hmoves, supplyMoves_stopped hstatus (by omega), if_pos hv]
  · rw [hmoves, supplyMoves_stopped hstatus hv', if_neg (by omega)]
  · refine ⟨fun h hv => ?_, fun h hv hv' => ?_, fun h hv => ?_, fun h hv hv' => ?_, fun h hv => ?_⟩
    · rw [hmoves, supplyMoves_stays (fun _ => by omega) (fun h' => nomatch h.symm.trans h') (by rw [h]; decide) (by omega)]
      rfl
    · rw [hmoves, supplyMoves_falls h (by omega) hv, passToLow_loading (by exact hloading)]
      rfl
    · rw [hmoves, supplyMoves_rises h (by omega)]
      rfl
    · rw [hmoves, supplyMoves_stays (fun h' => nomatch h.symm.trans h') (fun _ => by omega) (by rw [h]; decide) hv]
      rfl
    · cases hstatus : s.supply.status with
      | normal =>
        rw [hmoves, supplyMoves_fallsThrough hstatus hv, passToLow_loading (by exact hloading)]
        rfl
      | low =>
        rw [hmoves, supplyMoves_stops h
          (compareSupply_stays (fun h' => nomatch hstatus.symm.trans h') fun _ => by omega) hv]
        rfl
      | backup => exact absurd hstatus h

end Sys2Proof.Machine

/-! PROOFS. How orders end (O39). -/

namespace Sys2Proof.Machine

open Sys2Proof.Safety

/-! ## The end of a record at an assigned part (R87) -/

section

variable {o : OrderRec} {s : State}

/-- The gate of a RUNNING record told to close, with its account as run-out account; a gate that is CLOSED or in FAULT is
told nothing (R119). -/
def closedGate (o : OrderRec) (s : State) : State :=
  let g := getAt s.gates o.turnout
  if isRunningRec o = true ∧ (g.state = .moving ∨ g.state = .opened) then
    { place .d (mkFrame ⟨ownReach s, o.turnout.val + 1⟩ ⟨ownReach s, 0⟩ 0x31 (be 2 0) (isFrost o.cls)) s with
      gates := putAt s.gates o.turnout { g with
        commanded := 0
        lastCommand := s.clock.seconds
        stamp := s.clock.run
        state := .moving
        replyTimer := some s.tables.timing.gateReply
        travelTimer := some (getAt s.tables.turnouts o.turnout).travelLimit
        runOut := some o.account }
      gateWaiting := s.gateWaiting.filter fun x => x != o.turnout }
  else s

theorem requestClose_open (h : ownReach s ≠ 0) {t : Turnout}
    (hg : (getAt s.gates t).state = .moving ∨ (getAt s.gates t).state = .opened) (account : Nat) (cls : OrderClass) :
    requestClose t account cls s
      = mapGate t (fun g => { g with runOut := some account }) (openedGate t 0 (isFrost cls) s) := by
  have hset : gateSet t 0 (isFrost cls) true s = openedGate t 0 (isFrost cls) s := by
    rw [gateSet_assigned h, commandedGate_timed]
    rfl
  obtain hg | hg := hg <;> rw [requestClose, hg, ← hset]

theorem requestClose_shut {t : Turnout} (hg : ¬ ((getAt s.gates t).state = .moving ∨ (getAt s.gates t).state = .opened))
    (account : Nat) (cls : OrderClass) : requestClose t account cls s = s := by
  unfold requestClose
  split
  · rfl
  · rfl
  next hfault hclosed =>
    cases hstate : (getAt s.gates t).state with
    | closed => exact absurd hstate hclosed
    | moving => exact absurd (.inl hstate) hg
    | opened => exact absurd (.inr hstate) hg
    | fault c => exact absurd hstate (hfault c)

theorem closeForEnd_assigned (h : ownReach s ≠ 0) (o : OrderRec) : closeForEnd o s = closedGate o s := by
  unfold closeForEnd closedGate
  by_cases hrunning : isRunningRec o = true
  · by_cases hg : (getAt s.gates o.turnout).state = .moving ∨ (getAt s.gates o.turnout).state = .opened
    · rw [if_pos hrunning, if_pos ⟨hrunning, hg⟩, requestClose_open h hg, mapGate, openedGate, putAt_putAt,
        getAt_putAt_self]
    · rw [if_pos hrunning, if_neg fun hc => hg hc.2, requestClose_shut hg]
  · rw [if_neg hrunning, if_neg fun hc => hrunning hc.1]

/-- A record ended with a cause, before what the cause adds: its gate closed, the record out of the order unit, ENDED to the
station. -/
def endedOrder (cause : EndCause) (o : OrderRec) (s : State) : State :=
  place .d (mkFrame ⟨ownReach s, o.turnout.val + 1⟩ ⟨ownReach s, 0⟩ 0x23
    (be 1 o.terminal ++ be 1 o.tag ++ be 1 5 ++ be 1 (causeCode cause) ++ be 3 s.clock.seconds ++ be 4 (deliveredOf o))
    (isFrost o.cls)) { closedGate o s with orders := dropOrder o.tag (closedGate o s).orders }

/-- A record released upstream at the present second. -/
def releasedOrder (o : OrderRec) (s x : State) : State :=
  place .u (mkFrame ⟨0, 0⟩ ⟨ownReach s, 0⟩ 0x54
    (be 1 (ownReach s) ++ be 1 o.tag ++ be 3 (s.clock.seconds - s.tables.reach.travelLag)) (isFrost o.cls)) x

theorem sendRelease_now {x : State} (h : ownReach s ≠ 0) (htables : x.tables = s.tables) (o : OrderRec) :
    sendRelease o (now s) x = releasedOrder o s x := by
  have hown : ownReach x = ownReach s := by rw [ownReach, htables]; rfl
  rw [sendRelease, sendOffice_eq, originate, ownAddr, hown, if_neg h, shifted, htables]
  rfl

theorem sendEnded_assigned (h : ownReach s ≠ 0) (hvolume : deliveredOf o < 4294967296) (cause : EndCause) :
    sendEnded o cause s = place .d (mkFrame ⟨ownReach s, o.turnout.val + 1⟩ ⟨ownReach s, 0⟩ 0x23
      (be 1 o.terminal ++ be 1 o.tag ++ be 1 5 ++ be 1 (causeCode cause) ++ be 3 s.clock.seconds ++ be 4 (deliveredOf o))
      (isFrost o.cls)) s := by
  unfold sendEnded
  rw [drawFor, if_pos (by exact hvolume), wideBytes_fits _ (by exact hvolume), sendNotice_assigned h]
  rfl

theorem closedGate_kept (h : ownReach s ≠ 0) (o : OrderRec) :
    (closedGate o s).tables = s.tables ∧ (closedGate o s).clock = s.clock := by
  rw [← closeForEnd_assigned h]
  exact ⟨(closeForEnd_within o s).keeps .tables (by decide), (closeForEnd_within o s).keeps .clock (by decide)⟩

theorem endOrder_assigned (h : ownReach s ≠ 0) (hvolume : deliveredOf o < 4294967296) (cause : EndCause) :
    endOrder cause o s
      = if cause = .completed then endedOrder cause o s else releasedOrder o s (endedOrder cause o s) := by
  obtain ⟨htables, hclock⟩ := closedGate_kept h o
  have hown : ownReach (closedGate o s) = ownReach s := by rw [ownReach, htables]; rfl
  have hended : sendEnded o cause { closedGate o s with orders := dropOrder o.tag (closedGate o s).orders }
      = endedOrder cause o s := by
    rw [sendEnded_assigned (by rw [← hown] at h; exact h) hvolume]
    unfold endedOrder
    rw [← hown, ← hclock]
    rfl
  unfold endOrder
  dsimp only
  rw [closeForEnd_assigned h, hended, sendRelease_now h (by exact htables)]

end

/-! ## Cancel (R93) -/

theorem cancelMatches_iff {t : Turnout} {terminal account : Nat} {o : OrderRec} :
    cancelMatches t terminal account o = true ↔ o.turnout = t ∧ o.terminal = terminal ∧ o.account = account := by
  simp [cancelMatches, and_assoc]

theorem cancelTarget_none {t : Turnout} {terminal account : Nat} {s : State}
    (h : ∀ x ∈ s.orders.table, ¬ (x.turnout = t ∧ x.terminal = terminal ∧ x.account = account)) :
    cancelTarget t terminal account s = none := by
  have hnone : s.orders.table.filter (cancelMatches t terminal account) = [] :=
    List.filter_eq_nil_iff.2 fun x hx hmatch => h x hx (cancelMatches_iff.1 hmatch)
  rw [cancelTarget, hnone]
  rfl

/-- Of the matching records the one that starts first heads the sorted list. -/
theorem cancelTarget_first {o : OrderRec} {s : State} (ho : o ∈ s.orders.table)
    (hfirst : ∀ x ∈ s.orders.table, x.turnout = o.turnout → x.terminal = o.terminal → x.account = o.account →
      x.tag ≠ o.tag → o.start < x.start)
    (htags : s.orders.table.Pairwise fun x y => x.tag < y.tag) :
    cancelTarget o.turnout o.terminal o.account s = some o := by
  unfold cancelTarget
  have hmem : ∀ {x}, x ∈ sortBy (·.start) (s.orders.table.filter (cancelMatches o.turnout o.terminal o.account))
      ↔ x ∈ s.orders.table ∧ x.turnout = o.turnout ∧ x.terminal = o.terminal ∧ x.account = o.account := fun {x} => by
    rw [(sortBy_perm _ _).mem_iff, List.mem_filter, cancelMatches_iff]
  have hascending := sortBy_ascending (·.start) (s.orders.table.filter (cancelMatches o.turnout o.terminal o.account))
  cases hsorted : sortBy (·.start) (s.orders.table.filter (cancelMatches o.turnout o.terminal o.account)) with
  | nil => exact absurd (hmem.2 ⟨ho, rfl, rfl, rfl⟩) (by rw [hsorted]; exact List.not_mem_nil)
  | cons x rest =>
    rw [hsorted] at hmem hascending
    obtain ⟨hx, hturnout, hterminal, haccount⟩ := hmem.1 List.mem_cons_self
    refine congrArg some ?_
    obtain heq | hrest := List.mem_cons.1 (hmem.2 ⟨ho, rfl, rfl, rfl⟩)
    · exact heq.symm
    · have : Std.Symm fun x y : OrderRec => x.tag ≠ y.tag := ⟨fun _ _ h => Ne.symm h⟩
      have hle : x.start ≤ o.start := (List.pairwise_cons.1 hascending).1 o hrest
      by_contra hne
      have hapart : x.tag ≠ o.tag :=
        (htags.imp (S := fun x y => x.tag ≠ y.tag) fun h => Nat.ne_of_lt h).forall hx ho hne
      have := hfirst x hx hturnout hterminal haccount hapart
      omega

theorem exec_orderCancel_refused {t : Turnout} {m : Bool} {body : List Byte} {s : State} {reason : Nat} (hrun : Runs s)
    (ha : Assigned s) (h : takeCancel t body s = sendRefused t (firstByte body) 0 (ownReach s) reason false s) :
    exec (.orderCancel t m body) s = .next (place .d (mkFrame ⟨ownReach s, t.val + 1⟩ ⟨ownReach s, 0⟩ 0x23
      (be 1 (body.headD 0).toNat ++ be 1 0 ++ be 1 2 ++ be 1 (ownReach s) ++ be 1 reason) false) s) := by
  rw [exec_orderCancel hrun ha, h, sendRefused_assigned (assigned_ne_zero ha)]
  rfl

/-! ## Raised times (R85, R90) -/

theorem exec_endReached {o : OrderRec} {rest : List OrderEvent} {s : State} (hrun : Runs s)
    (hraised : s.orders.raised = ⟨.endReached, o.tag⟩ :: rest) (ho : findTag o.tag s.orders.table = some o)
    (hrunning : isRunningRec o = true) :
    exec .endReached s = .next (endOrder .completed o { s with orders := { s.orders with raised := rest } }) := by
  have hbooked : (bookedOrder o).1 = ⟨.endReached, o.tag⟩ := by
    unfold isRunningRec at hrunning
    unfold bookedOrder
    split at hrunning
    next hstate => rw [hstate]
    · exact nomatch hrunning
  show Host.Outcome.next (whileRunning _ s) = _
  rw [whileRunning_runs hrun, takeOrderEvent_first hraised ho hbooked]

theorem exec_holdDeadlineReached {o : OrderRec} {d : Nat} {rest : List OrderEvent} {s : State} (hrun : Runs s)
    (hraised : s.orders.raised = ⟨.holdDeadline, o.tag⟩ :: rest) (ho : findTag o.tag s.orders.table = some o)
    (hstate : o.state = .provisional d) :
    exec .holdDeadlineReached s = .next (lapse o { s with orders := { s.orders with raised := rest } }) := by
  show Host.Outcome.next (whileRunning _ s) = _
  rw [whileRunning_runs hrun, takeOrderEvent_first hraised ho (by simp only [bookedOrder, hstate])]

/-- A record that lapses at an assigned part. -/
theorem lapse_assigned {s : State} (h : ownReach s ≠ 0) (o : OrderRec) :
    lapse o s = raise .orderLapsed (releasedOrder o s
      (place .d (mkFrame ⟨ownReach s, o.turnout.val + 1⟩ ⟨ownReach s, 0⟩ 0x23
        (be 1 o.terminal ++ be 1 o.tag ++ be 1 3) (isFrost o.cls)) { s with orders := dropOrder o.tag s.orders })) := by
  unfold lapse sendLapsed
  rw [sendNotice_assigned (by exact h)]
  exact congrArg _ (sendRelease_now (s := s) (x := place .d _ { s with orders := _ }) h rfl o)

/-- Settles O39: the end of a record at an assigned part, and what each command ends. -/
theorem ordersEnd : Obligations.OrdersEnd := by
  refine ⟨fun cause s => ⟨rfl, fun tag tags => ?_⟩, fun tag u => rfl, fun t m s hrun ha => ⟨fun b0 b1 b2 hnone => ?_,
    fun body hlength => ?_⟩, fun o rest s hrun ha ho hvolume => ?_⟩
  · rw [endTags, endTags, List.foldl_cons, endTag] <;> rfl
  · refine exec_orderCancel_refused hrun ha ?_
    have hmatch := cancelTarget_none hnone
    rw [takeCancel, if_pos (by rfl), field_cons_zero_one, hmatch]
  · exact exec_orderCancel_refused hrun ha (if_neg hlength)
  · intro n popped closed without ended released
    have hown : ownReach s ≠ 0 := assigned_ne_zero ha
    refine ⟨fun cause => ?_, fun hraised hrunning => ?_, fun d hraised hstate => ?_,
      fun m hterminal haccount hfirst htags => ?_⟩
    · intro code
      have hcode : causeCode cause = code := by cases cause <;> rfl
      rw [endOrder_assigned hown hvolume, ← hcode]
      rfl
    · rw [exec_endReached hrun hraised ho hrunning, endOrder_assigned (by exact hown) hvolume]
      rfl
    · rw [exec_holdDeadlineReached hrun hraised ho hstate, lapse_assigned (by exact hown)]
      rfl
    · have hfields : field (be 1 o.terminal ++ be 2 o.account) 0 1 = o.terminal
          ∧ field (be 1 o.terminal ++ be 2 o.account) 1 2 = o.account :=
        ⟨field_be_append _ hterminal, by rw [field_skip _ (by decide)]; exact field_be haccount⟩
      obtain ⟨h0, h1⟩ := hfields
      rw [exec_orderCancel hrun ha, takeCancel, if_pos (by simp), h0, h1,
        cancelTarget_first (findTag_some ho).1 hfirst htags]
      exact congrArg _ (endOrder_assigned hown hvolume .cancelled)

end Sys2Proof.Machine

/-! PROOFS. Head readings (O47). -/

namespace Sys2Proof.Machine

open Sys2Proof.Safety

/-! ## Trim (R127, R128) -/

section

variable {t : Turnout} {measured : Nat} {s : State}

/-- The readings that call for a trim of the gate of a RUNNING order (R127). -/
def trimAsked (t : Turnout) (measured : Nat) (o : OrderRec) (s : State) : Prop :=
  runningOn t s.orders.table = some o ∧ (getAt s.gates t).state = .opened
    ∧ s.tables.reach.trimInterval ≤ s.clock.run - (getAt s.gates t).stamp
    ∧ s.tables.reach.trimTolerance * o.rate < (measured - o.rate + (o.rate - measured)) * 100

theorem trimCall_running {o : OrderRec} (h : runningOn t s.orders.table = some o) :
    trimCall t measured s
      = if (getAt s.gates t).state = .opened ∧ s.tables.reach.trimInterval ≤ s.clock.run - (getAt s.gates t).stamp
          ∧ trimNeeded measured o.rate s.tables.reach.trimTolerance = true
          ∧ trimOpening (getAt s.gates t).commanded o.rate measured ≠ (getAt s.gates t).commanded
        then some (o, trimOpening (getAt s.gates t).commanded o.rate measured) else none := by
  unfold trimCall
  rw [h]

theorem takeReading_trims {o : OrderRec} (h : ownReach s ≠ 0) (hasked : trimAsked t measured o s)
    (hopening : trimOpening (getAt s.gates t).commanded o.rate measured ≠ (getAt s.gates t).commanded) :
    takeReading t measured s
      = openedGate t (trimOpening (getAt s.gates t).commanded o.rate measured) (isFrost o.cls) s := by
  obtain ⟨hrunning, hstate, hinterval, hdiffers⟩ := hasked
  have hcall := trimCall_running (measured := measured) hrunning
  rw [if_pos ⟨hstate, hinterval, decide_eq_true hdiffers, hopening⟩] at hcall
  simp only [takeReading, hcall]
  rw [gateSet_assigned h, commandedGate_timed]
  rfl

theorem takeReading_of_none (h : trimCall t measured s = none) : takeReading t measured s = s := by
  simp only [takeReading, h]

theorem takeReading_same {o : OrderRec} (hasked : trimAsked t measured o s)
    (hopening : trimOpening (getAt s.gates t).commanded o.rate measured = (getAt s.gates t).commanded) :
    takeReading t measured s = s := by
  refine takeReading_of_none ((trimCall_running hasked.1).trans (if_neg fun h => ?_))
  exact h.2.2.2 hopening

theorem takeReading_unasked (h : ∀ o, ¬ trimAsked t measured o s) : takeReading t measured s = s := by
  refine takeReading_of_none ?_
  cases hrunning : runningOn t s.orders.table with
  | none => simp only [trimCall, hrunning]
  | some o =>
    refine (trimCall_running hrunning).trans (if_neg fun ⟨hstate, hinterval, hneeded, _⟩ => h o ?_)
    exact ⟨hrunning, hstate, hinterval, of_decide_eq_true hneeded⟩

end

/-! ## The stations (R140, R141) -/

section

variable {x : Station} {s : State}

theorem turnoutOfStation_turnout (h : x.val < 16) : turnoutOfStation x = some ⟨x.val, h⟩ := dif_pos h

theorem turnoutOfStation_flume (h : 16 ≤ x.val) : turnoutOfStation x = none := dif_neg (Nat.not_lt.2 h)

theorem eq_inflowStation_iff : x = inflowStation ↔ x.val = 16 := Fin.ext_iff

theorem curveOf_eq (x : Station) (s : State) :
    curveOf x s = if h : x.val < 16 then Fin.ofNat 4 (getAt s.tables.turnouts ⟨x.val, h⟩).curve
      else if x.val = 16 then 2 else 3 := by
  by_cases h : x.val < 16
  · simp only [curveOf, turnoutOfStation_turnout h, dif_pos h]
  · simp only [curveOf, turnoutOfStation_flume (Nat.not_lt.1 h), dif_neg h, eq_inflowStation_iff]

theorem acceptedRate_eq (x : Station) (head : Nat) (s : State) :
    acceptedRate x head s = if x.val < 16 then
      (if curveFlow head (pointsOf x s) < s.tables.reach.leak then 0 else curveFlow head (pointsOf x s))
      else curveFlow head (pointsOf x s) * 5 := by
  by_cases h : x.val < 16
  · simp only [acceptedRate, convertedRate, flowScale, turnoutOfStation_turnout h, if_pos h, Nat.mul_one]
  · simp only [acceptedRate, convertedRate, flowScale, turnoutOfStation_flume (Nat.not_lt.1 h), if_neg h]

theorem isOffRating_iff {head : Nat} :
    isOffRating x head s = true ↔ ∃ p, (pointsOf x s).getLast? = some p ∧ p.head < head := by
  unfold isOffRating
  cases (pointsOf x s).getLast? with
  | none => simp
  | some p => simp

end

/-! ## Readings (R137, R138, R142, R143) -/

section

variable {x : Station} {s : State} {res settle : Nat} {rest : List Station}

theorem takeHeadReading_unasked {body : List Byte}
    (h : s.scan.outstanding = false ∨ ∀ res settle rest, s.scan.phase ≠ .scanning res settle x rest) :
    takeHeadReading x body s = countRefusedSource .d s := by
  unfold takeHeadReading
  split
  next hphase hout =>
    refine if_neg fun hx => ?_
    obtain h | h := h
    · exact nomatch hout.symm.trans h
    · exact h _ _ _ (hx ▸ hphase)
  · rfl

theorem takeHeadReading_asked {body : List Byte} (hout : s.scan.outstanding = true)
    (hphase : s.scan.phase = .scanning res settle x rest) :
    takeHeadReading x body s = (headOf res body).elim (missPoll x s) fun head => acceptReading x head s := by
  simp only [takeHeadReading, hout, hphase]
  cases headOf res body <;> rfl

theorem headOf_malformed {body : List Byte} (h : body.length ≠ 3 ∨ field body 2 1 ≠ res ∨ 2 ^ res ≤ field body 0 2) :
    headOf res body = none := by
  unfold headOf
  split
  · rfl
  · split
    · rfl
    · refine if_pos ?_
      tauto

theorem headOf_bytes {count : Nat} (hres : res ≤ 16) (hcount : count < 2 ^ res) :
    headOf res (be 2 count ++ be 1 res) = some (count * 2 ^ (16 - res)) := by
  have hcount' : count < 256 ^ 2 := hcount.trans_le (Nat.pow_le_pow_right (by decide) hres)
  have h0 : field (be 2 count ++ be 1 res) 0 2 = count := field_be_append _ hcount'
  have h2 : field (be 2 count ++ be 1 res) 2 1 = res := by
    rw [field_skip _ (by decide)]
    exact field_be (by omega)
  rw [headOf, h0, h2, if_neg (by simp), if_neg (fun h => h rfl), if_neg (Nat.not_le.2 hcount)]

theorem acceptedStation_baseline {run rate : Nat} {r : StationRec} (h : r.state ≠ .live) :
    acceptedStation run rate r = { r with
      state := .live
      misses := 0
      rate := rate
      ref := run
      carry := 0
      unmetered := min 16777215 (r.unmetered + if r.state = .lost then run - r.ref else 0) } := by
  have hbaseline : acceptedStation run rate r = baselineStation run rate r := by
    unfold acceptedStation
    split
    next hlive => exact absurd hlive h
    · rfl
  rw [hbaseline, baselineStation, settledUnmetered, pendingGap_eq]
  rfl

theorem volumeOf_baseline {run rate : Nat} {r : StationRec} (h : r.state ≠ .live) : volumeOf run rate r = none := by
  unfold volumeOf
  split
  next hlive => exact absurd hlive h
  · rfl

theorem acceptedStation_interval {run rate : Nat} {r : StationRec} (h : r.state = .live) :
    acceptedStation run rate r = { r with
      misses := 0
      rate := rate
      ref := run
      carry := ((r.rate + rate) * (run - r.ref) + r.carry) % 2 } := by
  have hinterval : acceptedStation run rate r = intervalStation run rate r := by rw [acceptedStation, h]
  rw [hinterval]
  rfl

theorem volumeOf_interval {run rate : Nat} {r : StationRec} (h : r.state = .live) :
    volumeOf run rate r = some (((r.rate + rate) * (run - r.ref) + r.carry) / 2) := by
  rw [volumeOf, h]
  rfl

/-- What a reading hands on, by its station. -/
theorem handOn_turnout {t : Turnout} (h : x.val = t.val) (volume : Option Nat) (rate : Nat) :
    handOn x volume rate s = match volume with
      | some v => handTurnoutInterval t v rate s
      | none => takeReading t rate s := by
  have ht : turnoutOfStation x = some t :=
    (turnoutOfStation_turnout (by omega)).trans (congrArg some (Fin.ext h))
  unfold handOn
  rw [ht]
  cases volume <;> rfl

theorem handOn_baseline (h : 16 ≤ x.val) (rate : Nat) : handOn x none rate s = s := by
  simp only [handOn, turnoutOfStation_flume h]

theorem handOn_flume (h : 16 ≤ x.val) (v rate : Nat) :
    handOn x (some v) rate s = if x.val = 16 then creditInflow v s else creditOutflow v s := by
  simp only [handOn, turnoutOfStation_flume h, eq_inflowStation_iff]

end

/-- Settles O47: the trim that a rate calls for, a reading that none asked for or that misses, and an accepted one by the
record's state and the station's kind. -/
theorem headReadingIsTaken : Obligations.HeadReadingIsTaken := by
  intro x m s hrun ha
  have hown : ownReach s ≠ 0 := assigned_ne_zero ha
  refine ⟨fun t measured => ?_, fun body hunasked => ?_, fun count res settle rest hout hphase =>
    ⟨fun body htimer hmalformed => ?_, fun hres hres' hcount => ?_⟩⟩
  · intro g called opening
    exact ⟨fun o hcalled hopening => takeReading_trims hown hcalled hopening,
      fun o hcalled hopening => takeReading_same hcalled hopening, fun hnone => takeReading_unasked hnone⟩
  · rw [exec_headReading hrun ha, takeHeadReading_unasked hunasked]
  · rw [exec_headReading hrun ha, exec_pollReplyTimeout hrun hphase hout htimer, takeHeadReading_asked hout hphase,
      headOf_malformed hmalformed]
    rfl
  · intro arrives r head curve points flow rate off half gap first next seen hoff hon after
    have hrate : acceptedRate x head s = rate := by rw [acceptedRate_eq, pointsOf, curveOf_eq]
    have hseen : (if isOffRating x head s then raise .offRating s else s) = seen := by
      by_cases h : off
      · rw [hoff h, if_pos]
        rw [isOffRating_iff, pointsOf, curveOf_eq]
        exact h
      · rw [hon h, if_neg]
        rw [isOffRating_iff, pointsOf, curveOf_eq]
        exact h
    have hscan : seen.scan = s.scan := by
      by_cases h : off
      · rw [hoff h]; rfl
      · rw [hon h]
    have harrives : arrives = .next (handOn x (volumeOf s.clock.run rate r) rate
        (after (acceptedStation s.clock.run rate r))) := by
      refine (exec_headReading hrun ha x m _).trans ?_
      rw [takeHeadReading_asked hout hphase, headOf_bytes hres' hcount]
      show Host.Outcome.next (acceptReading x head s) = _
      unfold acceptReading
      dsimp only
      rw [hseen, hrate, mapStation, hscan]
    refine ⟨fun hstate => ?_, fun hstate => ?_⟩
    · rw [volumeOf_baseline hstate, acceptedStation_baseline hstate] at harrives
      exact ⟨fun t ht => harrives.trans (congrArg _ (handOn_turnout ht _ _)),
        fun hx => harrives.trans (congrArg _ (handOn_baseline hx _))⟩
    · rw [volumeOf_interval hstate, acceptedStation_interval hstate] at harrives
      refine ⟨fun t ht => harrives.trans (congrArg _ (handOn_turnout ht _ _)), fun hx => ?_, fun hx => ?_⟩
      · exact harrives.trans (congrArg _ ((handOn_flume (by omega) _ _).trans (if_pos hx)))
      · exact harrives.trans (congrArg _ ((handOn_flume (by omega) _ _).trans (if_neg (by omega))))

end Sys2Proof.Machine

/-! PROOFS. The credit of an interval (O48). -/

namespace Sys2Proof.Machine

open Sys2Proof.Safety

/-! ## Prices (R164, R165) -/

/-- The litres of a credit that lie in a range, counted one by one. -/
theorem litresIn_eq (v0 v lo hi : Nat) :
    litresIn v0 v lo hi = ((List.range v).filter fun j => decide (lo ≤ v0 + j) && decide (v0 + j < hi)).length := by
  unfold litresIn
  induction v with
  | zero => simp
  | succ n ih =>
    rw [List.range_succ, List.filter_append, List.length_append, ← ih, List.filter_singleton]
    by_cases h : lo ≤ v0 + n ∧ v0 + n < hi
    · simp only [h, decide_true, Bool.and_self, cond_true, List.length_singleton]
      omega
    · have hout : (decide (lo ≤ v0 + n) && decide (v0 + n < hi)) = false := by simpa using h
      simp only [hout, cond_false, List.length_nil]
      omega

theorem litresIn_beyond (v0 v lo : Nat) :
    litresIn v0 v lo (v0 + v) = ((List.range v).filter fun j => decide (lo ≤ v0 + j)).length := by
  rw [litresIn_eq]
  refine congrArg List.length (List.filter_congr fun j hj => ?_)
  have : v0 + j < v0 + v := by
    have := List.mem_range.1 hj
    omega
  simp [this]

/-- A credit's split and charge, with the litres of each tier counted. -/
theorem price_eq (k : TariffEntry) (a : AccountEntry) (v0 v : Nat) (c : OrderClass) :
    let litres := fun lo hi : Nat => ((List.range v).filter fun j =>
      decide (lo ≤ v0 + j) && decide (v0 + j < hi)).length
    let top := a.allotment * 1000
    let beyond := ((List.range v).filter fun j => decide (top ≤ v0 + j)).length
    price k a v0 v c = {
      tier1 := litres 0 (min top (k.threshold2 * 1000))
      tier2 := litres (k.threshold2 * 1000) (min top (k.threshold3 * 1000))
      tier3 := litres (k.threshold3 * 1000) (min top (k.threshold4 * 1000))
      tier4 := litres (k.threshold4 * 1000) top
      overdraft := beyond
      charge := litres 0 (min top (k.threshold2 * 1000)) * k.rate1
        + litres (k.threshold2 * 1000) (min top (k.threshold3 * 1000)) * k.rate2
        + litres (k.threshold3 * 1000) (min top (k.threshold4 * 1000)) * k.rate3
        + litres (k.threshold4 * 1000) top * k.rate4 + beyond * k.overdraftRate
        + (if isFrost c then v * k.surcharge else 0) } := by
  intro litres top beyond
  have hlitres : ∀ lo hi, litresIn v0 v lo hi = litres lo hi := litresIn_eq v0 v
  have hbeyond : litresIn v0 v (a.allotment * 1000) (v0 + v) = beyond := litresIn_beyond v0 v top
  unfold price chargeOf
  simp only [hlitres, ← hbeyond]
  cases c <;> rfl

/-! ## The allotment test (R155) -/

section

variable {a : AccountEntry} {before v : Nat} {table : List OrderRec}

theorem classCalls_iff (c : OrderClass) :
    classCalls a before v table c = true ↔ classLimit a c ≤ v ∧ (before < classLimit a c
      ∨ ∃ x ∈ table, isRunningRec x = true ∧ x.account = a.number ∧ x.cls = c) := by
  simp [classCalls, limitReached, isRunningOf, and_assoc]

/-- Some class calls for the event: the credit crossed its limit, or a record of it runs. -/
theorem anyClassCalls_iff :
    (classCalls a before v table .normal || classCalls a before v table .frost) = true
      ↔ (∃ cls, classLimit a cls ≤ v ∧ before < classLimit a cls)
        ∨ ∃ x ∈ table, (isRunningRec x && x.account == a.number && decide (classLimit a x.cls ≤ v)) = true := by
  have hany : (classCalls a before v table .normal || classCalls a before v table .frost) = true
      ↔ ∃ c, classCalls a before v table c = true := by
    rw [Bool.or_eq_true]
    constructor
    · rintro (h | h)
      · exact ⟨_, h⟩
      · exact ⟨_, h⟩
    · rintro ⟨c, h⟩
      cases c with
      | normal => exact .inl h
      | frost => exact .inr h
  rw [hany]
  simp only [classCalls_iff, Bool.and_eq_true, beq_iff_eq, decide_eq_true_iff]
  constructor
  · rintro ⟨c, hreached, hcrossed | ⟨x, hx, hrunning, haccount, hcls⟩⟩
    · exact .inl ⟨c, hreached, hcrossed⟩
    · exact .inr ⟨x, hx, ⟨hrunning, haccount⟩, hcls ▸ hreached⟩
  · rintro (⟨c, hreached, hcrossed⟩ | ⟨x, hx, ⟨hrunning, haccount⟩, hreached⟩)
    · exact ⟨c, hreached, .inl hcrossed⟩
    · exact ⟨x.cls, hreached, .inr ⟨x, hx, hrunning, haccount, rfl⟩⟩

end

theorem creditRec_kept (v amount : Nat) (o : OrderRec) :
    (creditRec v amount o).tag = o.tag ∧ (creditRec v amount o).account = o.account
      ∧ (creditRec v amount o).cls = o.cls ∧ isRunningRec (creditRec v amount o) = isRunningRec o := by
  refine ⟨?_, ?_, ?_, isRunningRec_creditRec _ _ _⟩ <;> unfold creditRec <;> split <;> rfl

/-- What the order unit takes of a credit does not change the allotment test. -/
theorem allotmentTest_creditOrder (i : Fin 64) (before tag v amount : Nat) (s : State) :
    allotmentTest i before (creditOrder tag v amount s) = allotmentTest i before s := by
  have hkept : ∀ o : OrderRec, isRunningRec (if o.tag == tag then creditRec v amount o else o) = isRunningRec o
      ∧ (if o.tag == tag then creditRec v amount o else o).account = o.account
      ∧ (if o.tag == tag then creditRec v amount o else o).cls = o.cls
      ∧ (if o.tag == tag then creditRec v amount o else o).tag = o.tag := fun o => by
    obtain ⟨htag, haccount, hcls, hrunning⟩ := creditRec_kept v amount o
    split
    · exact ⟨hrunning, haccount, hcls, htag⟩
    · exact ⟨rfl, rfl, rfl, rfl⟩
  have hrunningOf : ∀ n c, (isRunningOf n c ∘ fun o : OrderRec => if o.tag == tag then creditRec v amount o else o)
      = isRunningOf n c := fun n c => by
    funext o
    obtain ⟨hrunning, haccount, hcls, -⟩ := hkept o
    simp only [Function.comp_apply, isRunningOf, hrunning, haccount, hcls]
  have hcalls : ∀ a n c, classCalls a before n (creditOrder tag v amount s).orders.table c
      = classCalls a before n s.orders.table c := fun a n c => by
    unfold classCalls creditOrder
    rw [List.any_map, hrunningOf]
  have htags : ∀ a n, allotmentTags a n (creditOrder tag v amount s) = allotmentTags a n s := fun a n => by
    unfold allotmentTags tagsWhere creditOrder
    rw [List.filter_map, List.map_map]
    refine congr (congrArg List.map (funext fun o => (hkept o).2.2.2)) (List.filter_congr fun o _ => ?_)
    have hpick := fun c => congrFun (hrunningOf a.number c) o
    simp only [Function.comp_apply] at hpick ⊢
    rw [hpick, hpick]
  unfold allotmentTest
  dsimp only
  rw [hcalls, hcalls, htags]
  rfl

/-- The outcome of the test, where the limits and the records are those of the state before the credit. -/
theorem allotmentTest_eq (i : Fin 64) (before : Nat) (s : State) :
    let a := getAt s.tables.accounts i
    let after := (getAt s.metering.counters i).openVol
    let runs := fun x : OrderRec => isRunningRec x && x.account == a.number && decide (classLimit a x.cls ≤ after)
    let called := (∃ cls, classLimit a cls ≤ after ∧ before < classLimit a cls) ∨ ∃ x ∈ s.orders.table, runs x = true
    (called → allotmentTest i before s = some ((s.orders.table.filter runs).map (·.tag)))
      ∧ (¬ called → allotmentTest i before s = none) := by
  intro a after runs called
  refine ⟨fun h => ?_, fun h => ?_⟩
  · exact (if_pos (anyClassCalls_iff.2 h)).trans (congrArg some (allotmentTags_eq _ _ _))
  · exact if_neg fun hcalls => h (anyClassCalls_iff.1 hcalls)

/-! ## Where an interval goes (R152) -/

section

variable {t : Turnout} {v : Nat} {s : State}

theorem creditInterval_order {o : OrderRec} (h : runningOn t s.orders.table = some o) :
    creditInterval t v s = creditToOrder t o v s := by
  simp only [creditInterval, creditTarget, h]

theorem creditInterval_runOut {account : Nat} {i : Fin 64} (h : runningOn t s.orders.table = none)
    (hrunOut : (getAt s.gates t).runOut = some account) (hslot : findSlot s.tables.accounts account = some i) :
    creditInterval t v s = creditToRunOut t i v s := by
  simp only [creditInterval, creditTarget, h, hrunOut, hslot]

theorem creditInterval_unordered (h : runningOn t s.orders.table = none)
    (hslot : ∀ account, (getAt s.gates t).runOut = some account → findSlot s.tables.accounts account = none) :
    creditInterval t v s = (creditUnordered t v s, none) := by
  cases hrunOut : (getAt s.gates t).runOut with
  | none => simp only [creditInterval, creditTarget, h, hrunOut]
  | some account => simp only [creditInterval, creditTarget, h, hrunOut, hslot account hrunOut]

theorem creditToOrder_held {o : OrderRec} {i : Fin 64} (hslot : findSlot s.tables.accounts o.account = some i) :
    (creditToOrder t o v s).1 = creditOrder o.tag v (slotPrice i v o.cls s).charge
        (creditSlot i v o.cls (isFrost o.cls) false (meterInterval t (.order o) v s))
      ∧ (creditToOrder t o v s).2 = allotmentTest i (getAt s.metering.counters i).openVol
        (creditSlot i v o.cls (isFrost o.cls) false (meterInterval t (.order o) v s)) := by
  have hslot' : findSlot (meterInterval t (.order o) v s).tables.accounts o.account = some i := hslot
  simp only [creditToOrder, hslot']
  exact ⟨rfl, allotmentTest_creditOrder _ _ _ _ _ _⟩

theorem creditToOrder_unheld {o : OrderRec} (hslot : findSlot s.tables.accounts o.account = none) :
    creditToOrder t o v s = (creditOrder o.tag v 0 (meterInterval t (.order o) v s), none) := by
  have hslot' : findSlot (meterInterval t (.order o) v s).tables.accounts o.account = none := hslot
  simp only [creditToOrder, hslot']

end

/-! ## What follows the credit (R143) -/

theorem handTurnoutInterval_quiet {t : Turnout} {v : Nat} {s : State} (h : (creditInterval t v s).2 = none)
    (measured : Nat) : handTurnoutInterval t v measured s = takeReading t measured (creditInterval t v s).1 := by
  unfold handTurnoutInterval
  dsimp only
  rw [h]
  rfl

/-- The trim is taken after a number of the ends. -/
theorem endsAndTrim_split (t : Turnout) (measured : Nat) (tags : List Nat) (s : State) :
    ∃ k draws, k ≤ tags.length ∧ endsAndTrim t measured tags s = endTags .allotment (tags.drop k)
      (takeReading t measured (endTags .allotment (tags.take k) { s with free := draws })) := by
  unfold endsAndTrim
  split
  · refine ⟨tags.length, s.free, Nat.le_refl _, ?_⟩
    rw [List.drop_length, List.take_length]
    rfl
  · exact ⟨_, s.free + 1, Nat.lt_succ_iff.1 (Nat.mod_lt _ (Nat.succ_pos _)), rfl⟩

/-- Settles O48: by the first case of R152 that applies, and by what the credit hands over. -/
theorem intervalIsCreditedToTheOrder : Obligations.IntervalIsCreditedToTheOrder := by
  intro t v s up m cut metered inRange chargeFor credited limit tested r
  have hcharge : ∀ i c, (slotPrice i v c s).charge = chargeFor i (isFrost c) := fun i c =>
    congrArg Price.charge (price_eq _ _ _ _ _)
  have hcredited : ∀ i c runOut target, creditSlot i v c (isFrost c) runOut (meterInterval t target v s)
      = credited i (isFrost c) runOut (meterInterval t target v s) := fun i c runOut target => by
    unfold creditSlot mapCounters slotPrice
    rw [price_eq]
    rfl
  have htested : ∀ i c runOut target, tested i (allotmentTest i (getAt s.metering.counters i).openVol
      (creditSlot i v c (isFrost c) runOut (meterInterval t target v s))) := fun i c runOut target => by
    have hvolume : (getAt (creditSlot i v c (isFrost c) runOut (meterInterval t target v s)).metering.counters i).openVol
        = up ((getAt s.metering.counters i).openVol + v) := by
      rw [creditSlot, mapCounters_metering, getAt_putAt_self]
      rfl
    have htest := allotmentTest_eq i (getAt s.metering.counters i).openVol
      (creditSlot i v c (isFrost c) runOut (meterInterval t target v s))
    simp only [hvolume, classLimit_eq] at htest
    exact htest
  refine ⟨fun o hrunning => ?_, fun hrunning => ⟨fun account i hrunOut hslot => ?_, fun hslot => ?_⟩, fun measured => ?_⟩
  · intro w taken
    have htaken : ∀ charge x, creditOrder o.tag v charge x = taken charge x := fun charge x => by
      have hrec : ∀ y : OrderRec, (if y.tag == o.tag then creditRec v charge y else y)
          = if y.tag = o.tag then { y with state := match y.state with
              | .running seq delivered soFar => .running seq (delivered + v) (soFar + charge)
              | other => other } else y := fun y => by
        obtain ⟨tag, terminal, account, turnout, cls, start, stop, rate, state⟩ := y
        cases state <;> simp only [beq_iff_eq] <;> rfl
      unfold creditOrder
      simp only [hrec]
      rfl
    have hr : r = creditToOrder t o v s := creditInterval_order hrunning
    refine ⟨fun i hslot => ?_, fun hslot => ?_⟩
    · obtain ⟨hfirst, hsecond⟩ := creditToOrder_held (t := t) (v := v) hslot
      rw [hr, hfirst, hsecond, hcharge, htaken, hcredited]
      exact ⟨rfl, hcredited i o.cls false _ ▸ htested i o.cls false _⟩
    · rw [hr, creditToOrder_unheld hslot, htaken]
      rfl
  · have hr : r = creditToRunOut t i v s := creditInterval_runOut hrunning hrunOut hslot
    rw [hr]
    exact ⟨hcredited i .normal true (.runOut i), htested i .normal true (.runOut i)⟩
  · intro w
    exact creditInterval_unordered hrunning hslot
  · refine ⟨fun hnone => handTurnoutInterval_quiet hnone measured, fun tags hsome => ?_⟩
    intro w
    obtain ⟨k, draws, hk, hsplit⟩ := endsAndTrim_split t measured tags w
    refine ⟨k, draws, hk, Eq.trans ?_ hsplit⟩
    unfold handTurnoutInterval
    dsimp only
    rw [show (creditInterval t v s).2 = some tags from hsome]
    rfl

end Sys2Proof.Machine

/-! PROOFS. The close of a period (O33). -/

namespace Sys2Proof.Machine

open Sys2Proof.Safety

section

variable {s : State}

theorem needsBill_eq (a : AccountEntry) (c : Counters) :
    needsBill a c = decide (a.number ≠ 0 ∧ (c.openVol ≠ 0 ∨ c.charge ≠ 0 ∨ c.orderCount ≠ 0 ∨ c.void = true)) := by
  rw [Bool.eq_iff_iff]
  simp [needsBill, or_assoc]

theorem slotsToBill_eq (s : State) : slotsToBill s = (List.finRange 64).filter fun i =>
    let a := getAt s.tables.accounts i
    let c := getAt s.metering.counters i
    decide (a.number ≠ 0 ∧ (c.openVol ≠ 0 ∨ c.charge ≠ 0 ∨ c.orderCount ≠ 0 ∨ c.void = true)) := by
  unfold slotsToBill
  exact List.filter_congr fun i _ => needsBill_eq _ _

theorem closeUnmetered_eq (s : State) (x : Station) :
    closeUnmetered s x = min 16777215 ((getAt s.scan.stations x).unmetered
      + if (getAt s.scan.stations x).state = .lost then s.clock.run - (getAt s.scan.stations x).ref else 0) := by
  rw [closeUnmetered, settledUnmetered, pendingGap_eq]
  rfl

theorem closedStation_eq (run : Nat) (r : StationRec) :
    closedStation run r = { r with ref := if r.state = .lost then run else r.ref, unmetered := 0 } := by
  cases hstate : r.state <;> simp [closedStation, hstate]

theorem promoteTariff_unstaged {b : Billing} (h : b.staged = none) : promoteTariff b = b := by
  rw [promoteTariff, h]

theorem promoteTariff_staged {b : Billing} {x : Staged} (h : b.staged = some x) :
    promoteTariff b = { b with active := x.entries, staged := none, edition := (b.edition + 1) % 65536 } := by
  rw [promoteTariff, h]

/-! ## The completion test (R170) -/

theorem completionTest_empty (held : Bool) (k : Nat) (h : s.billing.closes = []) : completionTest held k s = s := by
  cases k with
  | zero => rfl
  | succ k => rw [completionTest, h]

theorem completionTest_fits {held : Bool} {k p : Nat} {rest : List Nat} (h : s.billing.closes = p :: rest)
    (hfits : closeFits s = true) :
    completionTest held (k + 1) s = completionTest held k (completeClose held p rest s) := by
  simp only [completionTest, h, hfits, if_true]

theorem completionTest_full {held : Bool} {k p : Nat} {rest : List Nat} (h : s.billing.closes = p :: rest)
    (hfull : closeFits s = false) : completionTest held (k + 1) s = raise .closeHeld s := by
  simp only [completionTest, h, hfull, Bool.false_eq_true, if_false]

/-! ## The event (R170) -/

theorem exec_periodClose {p : Nat} {rest : List Nat} (hrun : Runs s) (hraised : s.billing.raised = p :: rest) :
    exec .periodClose s = .next (takeClose p { s with billing := { s.billing with raised := rest } }) := by
  show Host.Outcome.next (whileRunning _ s) = _
  rw [whileRunning_runs hrun, periodCloseEvent, hraised]

theorem takeClose_first {p : Nat} (h : s.billing.closes.length = 0) :
    takeClose p s = completionTest false 1 { s with billing := { s.billing with closes := s.billing.closes ++ [p] } } :=
  if_pos h

theorem takeClose_behind {p : Nat} (h : 1 ≤ s.billing.closes.length) (h' : s.billing.closes.length ≤ 3) :
    takeClose p s = completionTest true (s.billing.closes.length + 1)
      (raise .closeHeld { s with billing := { s.billing with closes := s.billing.closes ++ [p] } }) :=
  (if_neg (by omega)).trans (if_pos (Nat.lt_succ_of_le h'))

theorem takeClose_fifth {p : Nat} (h : 4 ≤ s.billing.closes.length) :
    takeClose p s = completionTest true s.billing.closes.length (raise .closeHeld s) :=
  (if_neg (by omega)).trans (if_neg (Nat.not_lt.2 h))

end

/-- Settles O33: what a completion does, and by the place that a close takes in the list. -/
theorem periodCloseIsTaken : Obligations.PeriodCloseIsTaken := by
  unfold Obligations.PeriodCloseIsTaken
  intro needed made gap completed room
  have hneeded : ∀ s, slotsToBill s = needed s := slotsToBill_eq
  have hroom : ∀ s, closeFits s = true ↔ room s := fun s => by
    rw [closeFits, hneeded]
    exact decide_eq_true_iff
  have hbills : ∀ held p s, billsOf p (heldUntilNow held s) s = sortBy (·.account) (made held p s) := fun held p s => by
    rw [billsOf, hneeded]
    rfl
  have hrecord : ∀ p s, periodRecordOf p s = {
      period := p
      entries := tableOf fun t =>
        if (getAt s.tables.turnouts t).enabled = true then
          some ⟨(getAt s.metering.meters t).total, (getAt s.metering.meters t).unordered,
            min 16777215 ((getAt s.scan.stations ⟨t.val, by omega⟩).unmetered + gap s (getAt s.scan.stations ⟨t.val, by omega⟩))⟩
        else none
      inflow := s.metering.balance.inflow
      outflow := s.metering.balance.outflow } := fun p s => by
    simp only [periodRecordOf, closeUnmetered_eq]
    rfl
  have hcompleted : ∀ held p rest s, completeClose held p rest s = completed held p rest s := fun held p rest s => by
    have hstations : mapTable (closedStation s.clock.run) s.scan.stations = tableOf fun x =>
        { getAt s.scan.stations x with
          ref := if (getAt s.scan.stations x).state = .lost then s.clock.run else (getAt s.scan.stations x).ref
          unmetered := 0 } := by
      refine table_ext fun x => ?_
      rw [getAt_mapTable, getAt_tableOf, closedStation_eq]
    unfold completeClose cutMetering closeScan
    dsimp only
    rw [hbills, hrecord, hstations]
    cases hstaged : s.billing.staged with
    | none =>
      rw [promoteTariff_unstaged rfl]
      simp only [completed, hstaged]
    | some x =>
      rw [promoteTariff_staged (x := x) rfl]
      simp only [completed, hstaged]
  refine ⟨fun p rest s hrun hraised => ?_, fun held k s => ⟨rfl, fun h => completionTest_empty held k h,
    fun p rest hcloses => ⟨fun h => ?_, fun h => ?_⟩⟩, fun bills => ⟨sortBy_perm _ _, sortBy_ascending _ _⟩⟩
  · intro taken listed n
    have hlisted : n = 0 → listed.billing.closes = [p] := fun hn => by
      show s.billing.closes ++ [p] = [p]
      rw [List.eq_nil_of_length_eq_zero hn]
      rfl
    refine ⟨fun hn h => ?_, fun hn h => ?_, fun hn hn' => ?_, fun hn => ?_⟩
    · rw [exec_periodClose hrun hraised, takeClose_first (by exact hn)]
      refine congrArg _ ((completionTest_fits (hlisted hn) ((hroom _).2 h)).trans ?_)
      exact hcompleted false p [] listed
    · rw [exec_periodClose hrun hraised, takeClose_first (by exact hn)]
      exact congrArg _ (completionTest_full (hlisted hn) (eq_false_of_iff (hroom _) h))
    · exact (exec_periodClose hrun hraised).trans (congrArg _ (takeClose_behind hn hn'))
    · exact (exec_periodClose hrun hraised).trans (congrArg _ (takeClose_fifth hn))
  · rw [completionTest_fits hcloses ((hroom s).2 h), hcompleted]
  · exact completionTest_full hcloses (eq_false_of_iff (hroom s) h)

end Sys2Proof.Machine

/-! PROOFS. Shedding and bumping (O32). -/

namespace Sys2Proof.Machine

open Sys2Proof.Safety

/-! ## Sums over fewer records (R73) -/

theorem rateAt_mono {p : OrderRec → Bool} {table more : List OrderRec} (h : table.Sublist more) (t : Nat) :
    rateAt p table t ≤ rateAt p more t :=
  ((h.filter _).map _).sum_le_sum fun _ _ => Nat.zero_le _

/-- A sum above a limit has a record in it. -/
theorem exists_of_rateAt {p : OrderRec → Bool} {table : List OrderRec} {t limit : Nat} (h : limit < rateAt p table t) :
    ∃ o ∈ table, p o = true ∧ o.start ≤ t ∧ t < o.stop := by
  by_contra hnone
  have hempty : (table.filter fun o => p o && orderCovers t o) = [] := List.filter_eq_nil_iff.2 fun o ho hpicked => hnone (by
    simp only [orderCovers, covers, Bool.and_eq_true, decide_eq_true_iff] at hpicked
    exact ⟨o, ho, hpicked⟩)
  rw [rateAt, hempty] at h
  exact absurd h (Nat.not_lt_zero _)

theorem generalSum_eq (table : List OrderRec) (t : Nat) :
    generalSum table t
      = ((table.filter fun o => orderCovers t o && !(isFrost o.cls && isProvisional o)).map (·.rate)).sum := by
  unfold generalSum rateAt
  refine congrArg (fun l : List OrderRec => (l.map (·.rate)).sum) (List.filter_congr fun o _ => ?_)
  rw [inGeneral, Bool.and_comm, Bool.not_and]

theorem frostSum_eq (table : List OrderRec) (t : Nat) :
    frostSum table t = ((table.filter fun o => orderCovers t o && isFrost o.cls).map (·.rate)).sum := by
  unfold frostSum rateAt
  refine congrArg (fun l : List OrderRec => (l.map (·.rate)).sum) (List.filter_congr fun o _ => ?_)
  rw [inFrost, Bool.and_comm]

/-! ## A walk that ends the records that are due (R82, R94) -/

/-- The record of a tag ends with a cause when it is due. -/
def endDue (c : EndCause) (due : OrderRec → State → Bool) (s : State) (tag : Nat) : State :=
  match findTag tag s.orders.table with
  | none => s
  | some o => if due o s then endOrder c o s else s

theorem shedTag_eq (limit : Nat) : shedTag limit = endDue .curtailed fun o s => shedDue o limit s := rfl

/-- A bumping candidate is due: it covers a second of the window at which the general sum exceeds the limit. -/
def bumpDue (a b limit : Nat) (o : OrderRec) (s : State) : Bool :=
  coversOver o a b (generalSum s.orders.table) limit s.orders.table

theorem bumpTag_eq (a b limit : Nat) : bumpTag a b limit = endDue .bumped (bumpDue a b limit) := rfl

theorem bumpDue_iff {a b limit : Nat} {o : OrderRec} {s : State} :
    bumpDue a b limit o s = true ↔ ∃ t, a ≤ t ∧ t < b ∧ o.start ≤ t ∧ t < o.stop ∧ limit < generalSum s.orders.table t := by
  have h := coversOver_iff (o := o) (a := a) (b := b) (limit := limit) (p := inGeneral) (table := s.orders.table)
  refine h.trans ⟨fun ⟨t, h1, h2, h3, h4, h5⟩ => ⟨t, h2, h4, h1, h3, h5⟩, fun ⟨t, h1, h2, h3, h4, h5⟩ => ⟨t, h3, h1, h4, h2, h5⟩⟩

section

variable {c : EndCause} {due : OrderRec → State → Bool}

theorem endDue_found {s : State} {o : OrderRec} (h : findTag o.tag s.orders.table = some o) :
    endDue c due s o.tag = if due o s then endOrder c o s else s := by
  rw [endDue, h]

theorem endDue_sublist (s : State) (tag : Nat) : (endDue c due s tag).orders.table.Sublist s.orders.table := by
  unfold endDue
  split
  · exact List.Sublist.refl _
  · split
    · rw [endOrder_orders]
      exact List.filter_sublist
    · exact List.Sublist.refl _

theorem endDue_clock (s : State) (tag : Nat) : (endDue c due s tag).clock = s.clock := by
  unfold endDue
  split
  · rfl
  · split
    · exact (endOrder_within _ _ _).keeps .clock (by decide)
    · rfl

theorem walk_clock (tags : List Nat) (s : State) : (tags.foldl (endDue c due) s).clock = s.clock := by
  induction tags generalizing s with
  | nil => rfl
  | cons tag tags ih => exact (ih _).trans (endDue_clock s tag)

/-- A record that the walk visits and leaves is not due at its end, where what is due with fewer records was due before. -/
theorem walk_not_due
    (hmono : ∀ {o s t}, t.orders.table.Sublist s.orders.table → t.clock = s.clock → due o t = true → due o s = true)
    (tags : List Nat) {s : State} (hs : s.orders.table.Pairwise ordersApart) {o : OrderRec}
    (ho : o ∈ (tags.foldl (endDue c due) s).orders.table) (htag : o.tag ∈ tags) :
    due o (tags.foldl (endDue c due) s) = false := by
  induction tags generalizing s with
  | nil => exact nomatch htag
  | cons tag tags ih =>
    have hlater := foldl_sublist (f := endDue c due) endDue_sublist tags (endDue c due s tag)
    by_cases hvisited : o.tag ∈ tags
    · exact ih (hs.sublist (endDue_sublist s tag)) ho hvisited
    · obtain rfl : o.tag = tag := (List.mem_cons.1 htag).resolve_right hvisited
      have hfound : findTag o.tag s.orders.table = some o :=
        findTag_of_mem hs ((hlater.trans (endDue_sublist s o.tag)).subset ho)
      have hturn := endDue_found (c := c) (due := due) hfound
      refine Bool.eq_false_iff.2 fun hfinal => ?_
      have hnow : due o s = true :=
        hmono (hlater.trans (endDue_sublist s o.tag)) ((walk_clock tags _).trans (endDue_clock s o.tag)) hfinal
      have hleft := hlater.subset ho
      rw [hturn, if_pos hnow, endOrder_orders, dropOrder_table] at hleft
      simpa using (List.mem_filter.1 hleft).2

/-- A record that the walk does not visit stays. -/
theorem walk_unvisited (tags : List Nat) {s : State} {o : OrderRec} (ho : o ∈ s.orders.table) (htag : o.tag ∉ tags) :
    o ∈ (tags.foldl (endDue c due) s).orders.table := by
  induction tags generalizing s with
  | nil => exact ho
  | cons tag tags ih =>
    rw [List.mem_cons, not_or] at htag
    refine ih ?_ htag.2
    unfold endDue
    split
    · exact ho
    next x hx =>
      split
      · rw [endOrder_orders, dropOrder_table, (findTag_some hx).2]
        exact List.mem_filter.2 ⟨ho, by simpa using htag.1⟩
      · exact ho

end

/-! ## What the walks leave (R82, R94) -/

/-- The walk of shedding. -/
def shedWalk (limit : Nat) (s : State) : State :=
  (shedOrder s.orders.table).foldl (endDue .curtailed fun o s => shedDue o limit s) s

theorem shed_eq (limit : Nat) (s : State) : shed limit s
    = if (shedWalk limit s).orders.table.length < s.orders.table.length then raise .ordersShed (shedWalk limit s)
      else shedWalk limit s := by
  rw [shed, shedTag_eq]
  rfl

theorem shed_table (limit : Nat) (s : State) : (shed limit s).orders.table = (shedWalk limit s).orders.table := by
  rw [shed_eq]
  split <;> rfl

theorem shedWalk_sublist (limit : Nat) (s : State) : (shedWalk limit s).orders.table.Sublist s.orders.table :=
  foldl_sublist endDue_sublist _ _

/-- The tags that bumping for a record walks. -/
def bumpTags (f : OrderRec) (table : List OrderRec) : List Nat :=
  ((shedClass .normal table).filter fun o => overlaps o.start o.stop f.start f.stop).map (·.tag)

theorem bump82_eq (f : OrderRec) (s : State) : bump82 f s
    = (bumpTags f s.orders.table).foldl (endDue .bumped (bumpDue f.start f.stop s.clock.drawLimit)) s := by
  rw [bump82, bumpTag_eq]
  rfl

/-- What is due to be shed was due before with more records. -/
theorem shedDue_mono {limit : Nat} {o : OrderRec} {s t : State} (htable : t.orders.table.Sublist s.orders.table)
    (hclock : t.clock = s.clock) (h : shedDue o limit t = true) : shedDue o limit s = true := by
  obtain ⟨u, hnow, hstart, hstop, hover⟩ := shedDue_iff.1 h
  rw [now, hclock] at hnow
  refine shedDue_iff.2 ⟨u, hnow, hstart, hstop, ?_⟩
  exact hover.imp (fun ⟨hin, hlt⟩ => ⟨hin, hlt.trans_le (rateAt_mono htable u)⟩)
    fun ⟨hin, hlt⟩ => ⟨hin, hlt.trans_le (rateAt_mono htable u)⟩

theorem bumpDue_mono {a b limit : Nat} {o : OrderRec} {s t : State} (htable : t.orders.table.Sublist s.orders.table)
    (h : bumpDue a b limit o t = true) : bumpDue a b limit o s = true := by
  obtain ⟨u, ha, hb, hstart, hstop, hover⟩ := bumpDue_iff.1 h
  exact bumpDue_iff.2 ⟨u, ha, hb, hstart, hstop, hover.trans_le (rateAt_mono htable u)⟩

theorem tag_mem_shedOrder {table : List OrderRec} {o : OrderRec} (h : o ∈ table) : o.tag ∈ shedOrder table :=
  List.mem_map_of_mem ((shedClasses_perm table).mem_iff.2 h)

/-- No record that shedding leaves covers a second at which a sum in which it is counted exceeds the limit. -/
theorem shed_leaves {limit : Nat} {s : State} (hs : OrderLaw s) {o : OrderRec}
    (ho : o ∈ (shed limit s).orders.table) {t : Nat} (hnow : now s ≤ t) (hstart : o.start ≤ t) (hstop : t < o.stop) :
    ¬ ((inGeneral o = true ∧ limit < generalSum (shed limit s).orders.table t)
      ∨ (inFrost o = true ∧ limit < frostSum (shed limit s).orders.table t)) := by
  rw [shed_table] at ho ⊢
  have htag : o.tag ∈ shedOrder s.orders.table := tag_mem_shedOrder ((shedWalk_sublist limit s).subset ho)
  have hdue : shedDue o limit (shedWalk limit s) = false :=
    walk_not_due (c := .curtailed) (due := fun o s => shedDue o limit s) (s := s)
      (fun htable hclock h => shedDue_mono htable hclock h) (shedOrder s.orders.table) hs.2.1 ho htag
  have hclock : (shedWalk limit s).clock = s.clock := walk_clock _ s
  intro hover
  refine Bool.eq_false_iff.1 hdue (shedDue_iff.2 ⟨t, ?_, hstart, hstop, hover⟩)
  rw [now, hclock]
  exact hnow

/-- The tags that bumping walks for a record. -/
theorem mem_bumpTags {f o : OrderRec} {table : List OrderRec} :
    o ∈ (shedClass .normal table).filter (fun o => overlaps o.start o.stop f.start f.stop)
      ↔ (o ∈ table ∧ o.cls = .normal) ∧ o.start < f.stop ∧ f.start < o.stop := by
  rw [List.mem_filter, (shedClass_perm _ _).mem_iff, List.mem_filter]
  simp [overlaps]

theorem frost_of_not_normal {o : OrderRec} (h : o.cls ≠ .normal) : inFrost o = true := by
  cases hcls : o.cls with
  | normal => exact absurd hcls h
  | frost => simp [inFrost, isFrost, hcls]

/-- Where no NORMAL record covers a second, the frost sum bounds the general sum. -/
theorem generalSum_le_frostSum {table : List OrderRec} {t : Nat}
    (h : ∀ o ∈ table, o.cls = .normal → ¬ (o.start ≤ t ∧ t < o.stop)) : generalSum table t ≤ frostSum table t := by
  refine sum_filter_mono fun o ho hpicked => ?_
  simp only [orderCovers, covers, Bool.and_eq_true, decide_eq_true_iff] at hpicked ⊢
  exact ⟨frost_of_not_normal fun hcls => h o ho hcls hpicked.2, hpicked.2⟩

/-- Bumping leaves no NORMAL record on a second of the window at which the general sum exceeds the limit. -/
theorem bump82_leaves {f o : OrderRec} {s : State} (hs : OrderLaw s) (ho : o ∈ (bump82 f s).orders.table)
    (hcls : o.cls = .normal) {t : Nat} (ha : f.start ≤ t) (hb : t < f.stop) (hstart : o.start ≤ t) (hstop : t < o.stop) :
    generalSum (bump82 f s).orders.table t ≤ s.clock.drawLimit := by
  have hmem := (bump82_sublist f s).subset ho
  have htag : o.tag ∈ bumpTags f s.orders.table :=
    List.mem_map_of_mem (mem_bumpTags.2 ⟨⟨hmem, hcls⟩, by omega, by omega⟩)
  rw [bump82_eq] at ho ⊢
  have hdue := walk_not_due (c := .bumped) (due := bumpDue f.start f.stop s.clock.drawLimit) (s := s)
    (fun htable _ h => bumpDue_mono htable h) (bumpTags f s.orders.table) hs.2.1 ho htag
  exact Nat.not_lt.1 fun hover => Bool.eq_false_iff.1 hdue (bumpDue_iff.2 ⟨t, ha, hb, hstart, hstop, hover⟩)

/-- Bumping removes no FROST record. -/
theorem bump82_keeps_frost {f o : OrderRec} {s : State} (hs : OrderLaw s) (ho : o ∈ s.orders.table) (hcls : o.cls = .frost) :
    o ∈ (bump82 f s).orders.table := by
  rw [bump82_eq]
  refine walk_unvisited (bumpTags f s.orders.table) ho fun hvisited => ?_
  obtain ⟨x, hx, htag⟩ := List.mem_map.1 hvisited
  obtain ⟨⟨hmem, hnormal⟩, -⟩ := mem_bumpTags.1 hx
  rw [eq_of_tag_eq hs.2.1 hmem ho htag, hcls] at hnormal
  exact nomatch hnormal

/-! ## The shedding order (R94) -/

/-- The place of two records in the shedding order: NORMAL before FROST, in a class the PROVISIONAL ones by descending hold
deadline and tag, then the others by descending sequence. -/
def shedsBefore (a b : OrderRec) : Prop :=
  (a.cls = .normal ∧ b.cls = .frost)
    ∨ (a.cls = b.cls
      ∧ ((∃ d e, a.state = .provisional d ∧ b.state = .provisional e ∧ (e < d ∨ (d = e ∧ b.tag < a.tag)))
        ∨ (isProvisional a = true ∧ isProvisional b = false)
        ∨ (isProvisional a = false ∧ isProvisional b = false ∧ sequenceKey b ≤ sequenceKey a)))

theorem isProvisional_iff {o : OrderRec} : isProvisional o = true ↔ ∃ d, o.state = .provisional d := by
  unfold isProvisional
  cases o.state <;> simp

theorem tags_apart {table : List OrderRec} (h : table.Pairwise ordersApart) :
    table.Pairwise fun a b => a.tag ≠ b.tag :=
  h.imp fun h => Nat.ne_of_lt h.1

theorem tags_apart_perm {table walk : List OrderRec} (h : walk.Perm table) (ht : table.Pairwise fun a b => a.tag ≠ b.tag) :
    walk.Pairwise fun a b => a.tag ≠ b.tag :=
  (h.pairwise_iff fun h => Ne.symm h).2 ht

theorem mem_shedClass {c : OrderClass} {table : List OrderRec} {o : OrderRec} (h : o ∈ shedClass c table) :
    o ∈ table ∧ o.cls = c := by
  rw [(shedClass_perm _ _).mem_iff, List.mem_filter] at h
  exact ⟨h.1, by simpa using h.2⟩

theorem shedClass_ordered {s : State} (hs : OrderLaw s) (c : OrderClass) :
    (shedClass c s.orders.table).Pairwise shedsBefore := by
  have htags := tags_apart_perm (shedClass_perm c s.orders.table)
    ((tags_apart hs.2.1).sublist List.filter_sublist)
  have hprovisional : ∀ {o}, o ∈ (sortBy deadlineKey (s.orders.table.filter fun o => o.cls == c && isProvisional o)).reverse →
      o ∈ s.orders.table ∧ o.cls = c ∧ isProvisional o = true := fun {o} ho => by
    rw [List.mem_reverse, (sortBy_perm _ _).mem_iff, List.mem_filter] at ho
    simpa using ho
  have hother : ∀ {o}, o ∈ (sortBy sequenceKey (s.orders.table.filter fun o => o.cls == c && !isProvisional o)).reverse →
      o.cls = c ∧ isProvisional o = false := fun {o} ho => by
    rw [List.mem_reverse, (sortBy_perm _ _).mem_iff, List.mem_filter] at ho
    simpa using ho.2
  unfold shedClass at htags ⊢
  refine List.pairwise_append.2 ⟨?_, ?_, fun a ha b hb => ?_⟩
  · refine ((sortBy_reverse_descending deadlineKey _).and (List.pairwise_append.1 htags).1).imp_of_mem ?_
    intro a b ha hb hkeys
    obtain ⟨hkey, htag⟩ := hkeys
    obtain ⟨hamem, hacls, ha⟩ := hprovisional ha
    obtain ⟨hbmem, hbcls, hb⟩ := hprovisional hb
    obtain ⟨d, hd⟩ := isProvisional_iff.1 ha
    obtain ⟨e, he⟩ := isProvisional_iff.1 hb
    have hatag := hs.2.2 a hamem
    have hbtag := hs.2.2 b hbmem
    simp only [deadlineKey, hd, he] at hkey
    exact .inr ⟨hacls.trans hbcls.symm, .inl ⟨d, e, hd, he, by omega⟩⟩
  · refine (sortBy_reverse_descending sequenceKey _).imp_of_mem ?_
    intro a b ha hb hkey
    obtain ⟨hacls, ha⟩ := hother ha
    obtain ⟨hbcls, hb⟩ := hother hb
    exact .inr ⟨hacls.trans hbcls.symm, .inr (.inr ⟨ha, hb, hkey⟩)⟩
  · obtain ⟨-, hacls, ha⟩ := hprovisional ha
    obtain ⟨hbcls, hb⟩ := hother hb
    exact .inr ⟨hacls.trans hbcls.symm, .inr (.inl ⟨ha, hb⟩)⟩

theorem shedClasses_ordered {s : State} (hs : OrderLaw s) :
    (shedClass .normal s.orders.table ++ shedClass .frost s.orders.table).Pairwise shedsBefore :=
  List.pairwise_append.2 ⟨shedClass_ordered hs _, shedClass_ordered hs _,
    fun _ ha _ hb => .inl ⟨(mem_shedClass ha).2, (mem_shedClass hb).2⟩⟩

/-- A walk over tags is the walk over their records, whose turns end those that are due. -/
theorem endDue_walk {c : EndCause} {due : OrderRec → State → Bool} {s : State} {turn : State → OrderRec → State}
    (hturn : ∀ x o, x.clock = s.clock → turn x o = if due o x then endOrder c o x else x) {walk : List OrderRec}
    (hs : s.orders.table.Pairwise ordersApart) (hwalk : ∀ o ∈ walk, o ∈ s.orders.table)
    (htags : walk.Pairwise fun a b => a.tag ≠ b.tag) :
    (walk.map (·.tag)).foldl (endDue c due) s = walk.foldl turn s := by
  refine walk_records (inv := fun x => x.clock = s.clock) (fun x o hclock hfound => ?_) walk s rfl htags
    fun o ho => findTag_of_mem hs (hwalk o ho)
  have hstep : endDue c due x o.tag = turn x o := (endDue_found hfound).trans (hturn x o hclock).symm
  refine ⟨hstep, ?_, ?_⟩
  · rw [← hstep, endDue_clock, hclock]
  · rw [hturn x o hclock]
    split
    · exact .inr (endOrder_orders _ _ _)
    · exact .inl rfl

theorem inGeneral_iff {o : OrderRec} : inGeneral o = true ↔ ¬ (o.cls = .frost ∧ isProvisional o = true) := by
  simp [inGeneral, isFrost, imp_iff_not_or]

theorem inFrost_iff {o : OrderRec} : inFrost o = true ↔ o.cls = .frost := by
  simp [inFrost, isFrost]

/-- A record is due to be shed, at the present second of another state. -/
theorem shedDue_at {limit : Nat} {o : OrderRec} {s x : State} (hclock : x.clock = s.clock) :
    shedDue o limit x = true ↔ ∃ t, now s ≤ t ∧ o.start ≤ t ∧ t < o.stop
      ∧ ((¬ (o.cls = .frost ∧ isProvisional o = true) ∧ limit < generalSum x.orders.table t)
        ∨ (o.cls = .frost ∧ limit < frostSum x.orders.table t)) := by
  rw [shedDue_iff, now, hclock]
  simp only [inGeneral_iff, inFrost_iff, now]

/-- A turn given by its two cases is the choice between them. -/
theorem turn_eq {p : Prop} {b : Bool} {x y z : State} (hiff : b = true ↔ p) (h : (p → z = x) ∧ (¬ p → z = y)) :
    z = if b then x else y := by
  by_cases hp : p
  · rw [h.1 hp, if_pos (hiff.2 hp)]
  · rw [h.2 hp, if_neg fun hb => hp (hiff.1 hb)]

/-- Settles O32: what the walks leave due, and the walks as walks over records in the shedding order. -/
theorem sheddingAndBumpingMakeRoom : Obligations.SheddingAndBumpingMakeRoom := by
  refine ⟨fun limit s hs => ⟨fun t hnow => ?_, fun o ho => ?_⟩, fun f s hs hfrost => ⟨fun t ha hb => ?_, fun o ho hcls =>
    bump82_keeps_frost hs ho hcls⟩, fun table t => ⟨generalSum_eq table t, frostSum_eq table t⟩, ?_⟩
  · refine ⟨Nat.not_lt.1 fun hover => ?_, Nat.not_lt.1 fun hover => ?_⟩
    · obtain ⟨o, ho, hin, hstart, hstop⟩ := exists_of_rateAt hover
      exact shed_leaves hs ho hnow hstart hstop (.inl ⟨hin, hover⟩)
    · obtain ⟨o, ho, hin, hstart, hstop⟩ := exists_of_rateAt hover
      exact shed_leaves hs ho hnow hstart hstop (.inr ⟨hin, hover⟩)
  · rw [shed_table] at ho
    exact (shedWalk_sublist limit s).subset ho
  · by_cases hnormal : ∃ o ∈ (bump82 f s).orders.table, o.cls = .normal ∧ o.start ≤ t ∧ t < o.stop
    · obtain ⟨o, ho, hcls, hstart, hstop⟩ := hnormal
      exact bump82_leaves hs ho hcls ha hb hstart hstop
    · calc generalSum (bump82 f s).orders.table t
          ≤ frostSum (bump82 f s).orders.table t :=
            generalSum_le_frostSum fun o ho hcls hcovers => hnormal ⟨o, ho, hcls, hcovers⟩
        _ ≤ frostSum s.orders.table t := rateAt_mono (bump82_sublist f s) t
        _ ≤ s.clock.drawLimit := hfrost t ha hb
  · intro before
    have hbefore : ∀ a b, shedsBefore a b → before a b := by
      rintro a b (h | ⟨hcls, ⟨d, e, ha, hb, h⟩ | ⟨ha, hb⟩ | ⟨ha, hb, h⟩⟩)
      · exact .inl h
      · refine .inr ⟨hcls, ?_⟩
        rw [ha, hb]
        exact h
      · obtain ⟨d, hd⟩ := isProvisional_iff.1 ha
        refine .inr ⟨hcls, ?_⟩
        rw [hd]
        cases hstate : b.state with
        | provisional e => exact absurd (isProvisional_iff.2 ⟨e, hstate⟩) (Bool.eq_false_iff.1 hb)
        | confirmed | running => trivial
      · have hsequence : ∀ x y, sequenceOf a = some x → sequenceOf b = some y → y ≤ x := fun x y hx hy => by
          rwa [sequenceKey, sequenceKey, hx, hy] at h
        refine .inr ⟨hcls, ?_⟩
        cases hastate : a.state with
        | provisional d => exact absurd (isProvisional_iff.2 ⟨d, hastate⟩) (Bool.eq_false_iff.1 ha)
        | confirmed | running =>
          cases hbstate : b.state with
          | provisional e => exact absurd (isProvisional_iff.2 ⟨e, hbstate⟩) (Bool.eq_false_iff.1 hb)
          | confirmed | running => exact hsequence
    refine ⟨fun limit s turn hs hturn => ?_, fun f s turn hs hturn => ?_⟩
    · have hperm := shedClasses_perm s.orders.table
      refine ⟨_, hperm, (shedClasses_ordered hs).imp fun h => hbefore _ _ h, ?_⟩
      intro w
      have hwalk : shedWalk limit s = w :=
        endDue_walk (due := fun o s => shedDue o limit s) (fun x o hclock => turn_eq (shedDue_at hclock) (hturn x o)) hs.2.1
          (fun o ho => hperm.mem_iff.1 ho) (tags_apart_perm hperm (tags_apart hs.2.1))
      have hlength : w.orders.table.length ≤ s.orders.table.length := by
        rw [← hwalk]
        exact (shedWalk_sublist limit s).length_le
      rw [shed_eq, hwalk]
      exact ⟨fun h => if_neg (by omega), fun h => if_pos (by omega)⟩
    · have hperm : ((shedClass .normal s.orders.table).filter fun o => overlaps o.start o.stop f.start f.stop).Perm
          (s.orders.table.filter fun o => !isFrost o.cls && decide (o.start < f.stop) && decide (f.start < o.stop)) := by
        refine ((shedClass_perm _ _).filter _).trans (List.Perm.of_eq ?_)
        rw [List.filter_filter]
        refine List.filter_congr fun o _ => ?_
        have hnormal : (o.cls == .normal) = !isFrost o.cls := by cases o.cls <;> rfl
        rw [hnormal, overlaps, Bool.and_comm, ← Bool.and_assoc]
      refine ⟨_, hperm, ((shedClass_ordered hs .normal).sublist List.filter_sublist).imp fun h => hbefore _ _ h, ?_⟩
      rw [bump82_eq]
      exact endDue_walk (due := bumpDue f.start f.stop s.clock.drawLimit) (fun x o _ => turn_eq bumpDue_iff (hturn x o)) hs.2.1
        (fun o ho => List.mem_of_mem_filter (hperm.mem_iff.1 ho))
        (tags_apart_perm hperm ((tags_apart hs.2.1).sublist List.filter_sublist))

end Sys2Proof.Machine

/-! PROOFS. What a restart loads (O52). -/

namespace Sys2Proof.Machine

open Sys2Proof.Safety

/-! ## The complete regions (R178) -/

section

variable {g : Regions}

theorem complete_of_header {α : Type} {bytes : α → List Byte} {x : Stored α} {h : Header}
    (hfound : (found bytes x).map (·.1) = some h) : ∃ c, Complete bytes x h c := by
  obtain ⟨⟨h', c⟩, hx, rfl⟩ := Option.map_eq_some_iff.1 hfound
  exact ⟨c, (found_iff _ _ _ _).1 hx⟩

/-- Loading finds the headers of the complete regions. -/
theorem headerOf_eq_some {r : RegionId} {h : Header} :
    headerOf r (findRegions g) = some h ↔ ∃ i, imageRegion i = r ∧ HoldsCopy g h i := by
  constructor
  · intro hfound
    cases r with
    | reach => exact (complete_of_header hfound).elim fun c hc => ⟨.reach c, rfl, hc⟩
    | turnouts => exact (complete_of_header hfound).elim fun c hc => ⟨.turnouts c, rfl, hc⟩
    | rating => exact (complete_of_header hfound).elim fun c hc => ⟨.rating c, rfl, hc⟩
    | accounts => exact (complete_of_header hfound).elim fun c hc => ⟨.accounts c, rfl, hc⟩
    | tariff => exact (complete_of_header hfound).elim fun c hc => ⟨.tariff c, rfl, hc⟩
    | lineTiming => exact (complete_of_header hfound).elim fun c hc => ⟨.lineTiming c, rfl, hc⟩
    | scan => exact (complete_of_header hfound).elim fun c hc => ⟨.scan c, rfl, hc⟩
    | alertEnables => exact (complete_of_header hfound).elim fun c hc => ⟨.alertEnables c, rfl, hc⟩
    | accountState => exact (complete_of_header hfound).elim fun c hc => ⟨.accountState c, rfl, hc⟩
  · rintro ⟨i, rfl, hc⟩
    cases i <;> exact Option.map_eq_some_iff.2 ⟨_, (found_iff _ _ _ _).2 hc, rfl⟩

theorem lacksRegion_iff {r : RegionId} : LacksRegion g r ↔ (headerOf r (findRegions g)).isNone = true := by
  rw [Option.isNone_iff_eq_none, Option.eq_none_iff_forall_ne_some]
  constructor
  · intro hlacks h hfound
    obtain ⟨i, hi, hc⟩ := headerOf_eq_some.1 hfound
    exact hlacks h i hi hc
  · intro hnone h i hi hc
    exact hnone h (headerOf_eq_some.2 ⟨i, hi, hc⟩)

theorem mem_wipeOrder (r : RegionId) : r ∈ wipeOrder := by cases r <;> decide

theorem mem_completeHeaders {h : Header} : h ∈ completeHeaders (findRegions g) ↔ HoldsHeader g h := by
  unfold completeHeaders HoldsHeader
  rw [List.mem_filterMap]
  constructor
  · rintro ⟨r, -, hfound⟩
    obtain ⟨i, -, hc⟩ := headerOf_eq_some.1 hfound
    exact ⟨i, hc⟩
  · rintro ⟨i, hc⟩
    exact ⟨imageRegion i, mem_wipeOrder _, headerOf_eq_some.2 ⟨i, rfl, hc⟩⟩

end

/-! ## The header written last (R178, R187) -/

theorem laterHeader_some (b h : Header) : laterHeader (some b) h = some (if b.sequence < h.sequence then h else b) :=
  (apply_ite some _ _ _).symm

/-- The fold keeps a header of the list, or its start, that none follows. -/
theorem foldl_laterHeader (l : List Header) (b : Header) :
    ∃ h, l.foldl laterHeader (some b) = some h ∧ (h = b ∨ h ∈ l) ∧ b.sequence ≤ h.sequence
      ∧ ∀ x ∈ l, x.sequence ≤ h.sequence := by
  induction l generalizing b with
  | nil => exact ⟨b, rfl, .inl rfl, Nat.le_refl _, nofun⟩
  | cons x l ih =>
    rw [List.foldl_cons, laterHeader_some]
    obtain ⟨h, hfold, hmem, hstart, hrest⟩ := ih (if b.sequence < x.sequence then x else b)
    refine ⟨h, hfold, ?_, ?_, fun y hy => ?_⟩
    · obtain rfl | hmem := hmem
      · split
        · exact .inr List.mem_cons_self
        · exact .inl rfl
      · exact .inr (List.mem_cons_of_mem _ hmem)
    · split at hstart <;> omega
    · obtain rfl | hy := List.mem_cons.1 hy
      · split at hstart <;> omega
      · exact hrest y hy

theorem latestHeader_none {g : Regions} (h : ∀ x, ¬ HoldsHeader g x) : latestHeader (findRegions g) = none := by
  have hempty : completeHeaders (findRegions g) = [] :=
    List.eq_nil_iff_forall_not_mem.2 fun x hx => h x (mem_completeHeaders.1 hx)
  rw [latestHeader, hempty]
  rfl

theorem latestHeader_some {g : Regions} {x : Header} (h : HoldsHeader g x) :
    ∃ b, latestHeader (findRegions g) = some b ∧ HoldsHeader g b ∧ ∀ y, HoldsHeader g y → y.sequence ≤ b.sequence := by
  have hx := mem_completeHeaders.2 h
  cases hheaders : completeHeaders (findRegions g) with
  | nil =>
    rw [hheaders] at hx
    exact nomatch hx
  | cons y l =>
    obtain ⟨b, hfold, hmem, hstart, hrest⟩ := foldl_laterHeader l y
    have hall : ∀ {z}, HoldsHeader g z ↔ z = y ∨ z ∈ l := fun {z} => by
      rw [← mem_completeHeaders, hheaders, List.mem_cons]
    refine ⟨b, ?_, hall.2 hmem, fun z hz => ?_⟩
    · rw [latestHeader, hheaders]
      exact hfold
    · obtain rfl | hz := hall.1 hz
      · exact hstart
      · exact hrest z hz

/-! ## The set of factory tables (R53, R186) -/

theorem getLsbD_tableSet (l : List RegionId) (b : BitVec 8) (k : Nat) (hk : k < 8) :
    (l.foldl (fun b r => b ||| (1#8 <<< (regionCode r - 1))) b).getLsbD k = true
      ↔ b.getLsbD k = true ∨ ∃ r ∈ l, regionCode r = k + 1 := by
  induction l generalizing b with
  | nil => simp
  | cons r l ih =>
    have hcode : 1 ≤ regionCode r := by cases r <;> decide
    have hbit : (1#8 <<< (regionCode r - 1)).getLsbD k = true ↔ regionCode r = k + 1 := by
      rw [BitVec.getLsbD_shiftLeft, BitVec.getLsbD_one]
      simp
      omega
    rw [List.foldl_cons, ih, BitVec.getLsbD_or, Bool.or_eq_true, hbit, or_assoc]
    simp

theorem regionCode_inj {q r : RegionId} (h : regionCode q = regionCode r) : q = r := by
  have := congrArg regionOf h
  rw [regionOf_regionCode, regionOf_regionCode] at this
  exact Option.some.inj this

theorem incompleteTables_bit {g : Regions} {k : Nat} {r : RegionId} (hr : r ∈ tableRegions) (hk : regionCode r = k + 1) :
    (incompleteTables (findRegions g)).getLsbD k = true ↔ LacksRegion g r := by
  have hk' : k < 8 := by
    have : ∀ r ∈ tableRegions, regionCode r ≤ 8 := by decide
    have := this r hr
    omega
  unfold incompleteTables
  rw [getLsbD_tableSet _ _ _ hk', lacksRegion_iff]
  constructor
  · rintro (h | ⟨q, hq, hcode⟩)
    · exact absurd h (by simp)
    · obtain rfl := regionCode_inj (hcode.trans hk.symm)
      exact (List.mem_filter.1 hq).2
  · exact fun h => .inr ⟨r, List.mem_filter.2 ⟨hr, h⟩, hk⟩

theorem incompleteTables_ne_zero {g : Regions} :
    incompleteTables (findRegions g) ≠ 0 ↔ ∃ r ∈ tableRegions, LacksRegion g r := by
  constructor
  · intro hne
    by_contra hnone
    refine hne (BitVec.eq_of_getLsbD_eq fun k hk => ?_)
    refine (Bool.eq_false_iff.2 fun hbit => ?_).trans BitVec.getLsbD_zero.symm
    unfold incompleteTables at hbit
    obtain hzero | ⟨r, hr, -⟩ := (getLsbD_tableSet _ _ _ hk).1 hbit
    · exact absurd hzero (by simp)
    · obtain ⟨hr, hlacks⟩ := List.mem_filter.1 hr
      exact hnone ⟨r, hr, lacksRegion_iff.2 hlacks⟩
  · rintro ⟨r, hr, hlacks⟩ hzero
    have hcode : 1 ≤ regionCode r := by cases r <;> decide
    have hbit := (incompleteTables_bit (k := regionCode r - 1) hr (by omega)).2 hlacks
    rw [hzero] at hbit
    exact absurd hbit (by simp)

theorem loadFault_iff {g : Regions} : loadFault (findRegions g) = true ↔ ∃ r, LacksRegion g r := by
  have haccount : (findRegions g).accountState.isNone = true ↔ LacksRegion g .accountState := by
    rw [lacksRegion_iff]
    exact Eq.congr_left Option.isNone_map.symm
  rw [loadFault, Bool.or_eq_true, bne_iff_ne, incompleteTables_ne_zero, haccount]
  constructor
  · rintro (⟨r, -, h⟩ | h)
    · exact ⟨r, h⟩
    · exact ⟨_, h⟩
  · rintro ⟨r, h⟩
    cases r with
    | accountState => exact .inr h
    | reach | turnouts | rating | accounts | tariff | lineTiming | scan | alertEnables => exact .inl ⟨_, by decide, h⟩

/-! ## What loading places (R161, R169, R186, R187) -/

/-- What loading places of a region: its content when it is complete, else the factory value. -/
theorem contentOr_complete {α : Type} {bytes : α → List Byte} {x : Stored α} {h : Header} {c : α}
    (hc : Complete bytes x h c) (factory : α) : contentOr (found bytes x) factory = c := by
  rw [(found_iff _ _ _ _).2 hc, contentOr]

theorem contentOr_incomplete {α : Type} {bytes : α → List Byte} {x : Stored α} (h : Incomplete bytes x) (factory : α) :
    contentOr (found bytes x) factory = factory := by
  rw [(found_none _ _).2 h, contentOr]

section

variable {F : Found} {h : Header} {a : AccountImage}

theorem loadResult_restored (ha : F.accountState = some (h, a)) : loadResult F = .restored := if_pos (by rw [ha]; rfl)

theorem loadResult_void (ha : F.accountState = none) : loadResult F = .void :=
  if_neg (by rw [ha]; exact Bool.false_ne_true)

theorem loadPeriod_restored (ha : F.accountState = some (h, a)) : loadPeriod F = a.period := by
  rw [loadPeriod, ha]

theorem loadPeriod_latest {b : Header} (ha : F.accountState = none) (hb : latestHeader F = some b) :
    loadPeriod F = b.period := by
  rw [loadPeriod, ha, hb]

theorem loadPeriod_empty (ha : F.accountState = none) (hb : latestHeader F = none) : loadPeriod F = 0 := by
  rw [loadPeriod, ha, hb]

theorem loadMetering_restored (ha : F.accountState = some (h, a)) (accounts : Vector AccountEntry 64) :
    loadMetering F accounts
      = { counters := tableOf (loadCounters F accounts), meters := a.meters, balance := a.balance } := by
  rw [loadMetering, ha]

theorem loadMetering_void (ha : F.accountState = none) (accounts : Vector AccountEntry 64) :
    loadMetering F accounts = { counters := tableOf (loadCounters F accounts) } := by
  rw [loadMetering, ha]

theorem loadCounters_restored (ha : F.accountState = some (h, a)) (accounts : Vector AccountEntry 64) (i : Fin 64) :
    loadCounters F accounts i = if (getAt accounts i).number = 0 then {} else getAt a.counters i := by
  rw [loadCounters, ha]

theorem loadCounters_void (ha : F.accountState = none) (accounts : Vector AccountEntry 64) (i : Fin 64) :
    loadCounters F accounts i = { void := decide ((getAt accounts i).number ≠ 0) } := by
  rw [loadCounters, ha]
  by_cases hnumber : (getAt accounts i).number = 0
  · rw [if_pos hnumber, decide_eq_false (not_not_intro hnumber)]
  · rw [if_neg hnumber, decide_eq_true hnumber]

theorem loadStations_restored (ha : F.accountState = some (h, a)) (x : Station) :
    getAt (loadStations F) x = { unmetered := getAt a.unmetered x } := by
  rw [loadStations, ha]
  exact getAt_mapTable _ _ _

theorem loadStations_void (ha : F.accountState = none) (x : Station) : getAt (loadStations F) x = {} := by
  rw [loadStations, ha]
  exact getAt_replicate _ _

theorem heldStaged_complete {i : TariffImage} (ht : F.tariff = some (h, i)) : heldStaged F = i.staged := by
  rw [heldStaged, ht]

theorem heldStaged_incomplete (ht : F.tariff = none) : heldStaged F = none := by
  rw [heldStaged, ht]

theorem heldActive_complete {i : TariffImage} (ht : F.tariff = some (h, i)) : heldActive F = i.active := by
  rw [heldActive, ht]

theorem heldActive_incomplete (ht : F.tariff = none) : heldActive F = .replicate 4 {} := by
  rw [heldActive, ht]

theorem editionAfter_staged {y : Staged} (hy : heldStaged F = some y) (n : Nat) :
    editionAfter F n = (y.edition + 1) % 65536 := by
  rw [editionAfter, hy]

theorem editionAfter_unstaged (hy : heldStaged F = none) (n : Nat) : editionAfter F n = n := by
  rw [editionAfter, hy]

theorem loadBilling_locked (ha : F.accountState = some (h, a)) (hlock : a.lock = true) :
    loadBilling F = {
      active := a.active.getD (heldActive F)
      staged := (heldStaged F).filter fun x => x.edition == a.edition
      lock := true
      edition := a.edition
      closes := a.closes
      bills := a.bills } := by
  rw [loadBilling, ha]
  exact if_pos hlock

theorem loadBilling_unlocked (ha : F.accountState = some (h, a)) (hlock : a.lock = false) :
    loadBilling F = {
      active := heldActive F
      edition := editionAfter F a.edition
      closes := a.closes
      bills := a.bills } := by
  rw [loadBilling, ha]
  exact if_neg (Bool.eq_false_iff.1 hlock)

theorem loadBilling_restored (ha : F.accountState = some (h, a)) :
    (loadBilling F).bills = a.bills ∧ (loadBilling F).closes = a.closes ∧ (loadBilling F).lock = a.lock := by
  cases hlock : a.lock with
  | true =>
    rw [loadBilling_locked ha hlock]
    exact ⟨rfl, rfl, rfl⟩
  | false =>
    rw [loadBilling_unlocked ha hlock]
    exact ⟨rfl, rfl, rfl⟩

theorem loadBilling_void (ha : F.accountState = none) :
    loadBilling F = { active := heldActive F, edition := editionAfter F 0 } := by
  rw [loadBilling, ha]

end

theorem loadBilling_raised (F : Found) : (loadBilling F).raised = [] := by
  unfold loadBilling
  split
  · rfl
  · split <;> rfl

/-- While the lock is clear, the tariff and the edition come from the tariff region. -/
theorem unlockedTariff {g : Regions} {b : Billing} {n : Nat} (hactive : b.active = heldActive (findRegions g))
    (hedition : b.edition = editionAfter (findRegions g) n) :
    (∀ i, (∃ h, Complete tariffImageBytes g.tariff h i) → b.active = i.active
      ∧ (∀ y, i.staged = some y → b.edition = (y.edition + 1) % 65536) ∧ (i.staged = none → b.edition = n))
    ∧ (Incomplete tariffImageBytes g.tariff → b.active = .replicate 4 {} ∧ b.edition = n) := by
  refine ⟨fun i ⟨h, hi⟩ => ?_, fun hi => ?_⟩
  · have hfound : (findRegions g).tariff = some (h, i) := (found_iff _ _ _ _).2 hi
    have hstaged := heldStaged_complete hfound
    exact ⟨hactive.trans (heldActive_complete hfound),
      fun y hy => hedition.trans (editionAfter_staged (hstaged.trans hy) _),
      fun hy => hedition.trans (editionAfter_unstaged (hstaged.trans hy) _)⟩
  · have hfound : (findRegions g).tariff = none := (found_none _ _).2 hi
    exact ⟨hactive.trans (heldActive_incomplete hfound),
      hedition.trans (editionAfter_unstaged (heldStaged_incomplete hfound) _)⟩

/-- A stopped part restarts above the restart level. -/
theorem lowerPassages_above {s : State} (hstatus : s.supply.status = .backup) (hlevel : 10200 < s.supply.level) :
    lowerPassages s = restartReading (restartKind s.supply.retention) s := by
  have hbackup : backupCheck s = s := if_neg fun h => h.1 hstatus
  have hretention : retentionCheck s = s := if_neg fun h => by
    have : s.supply.level ≤ 6000 := h.2
    omega
  rw [lowerPassages, hbackup, hretention]
  exact if_pos ⟨hstatus, hlevel⟩

/-- Settles O52: each part of what a restart loads, by what the store holds. -/
theorem restartLoadsTheStore : Obligations.RestartLoadsTheStore := by
  unfold Obligations.RestartLoadsTheStore
  intro loads
  have hloads : ∀ kind v s, loads kind v s (restartReading kind (setLevel v s)) := by
    intro kind v s
    refine ⟨rfl, rfl, rfl, rfl, rfl, rfl, rfl, rfl, rfl, rfl, rfl, rfl, loadBilling_raised _, rfl, ?_⟩
    intro g restored void tariff noTariff
    have hrestored : ∀ a, restored a → ∃ h, (findRegions g).accountState = some (h, a) := fun a ⟨h, ha⟩ =>
      ⟨h, (found_iff _ _ _ _).2 ha⟩
    have hvoid : void → (findRegions g).accountState = none := (found_none _ _).2
    have htariff : ∀ i, tariff i → ∃ h, (findRegions g).tariff = some (h, i) := fun i ⟨h, hi⟩ =>
      ⟨h, (found_iff _ _ _ _).2 hi⟩
    have hnoTariff : noTariff → (findRegions g).tariff = none := (found_none _ _).2
    refine ⟨⟨_, rfl, rfl, fun a ha => ?_, fun hv => ?_, fun k r hkr => ?_, loadFault_iff⟩,
      fun h x hc => contentOr_complete hc _, fun hi => contentOr_incomplete hi _,
      fun h x hc => contentOr_complete hc _, fun hi => contentOr_incomplete hi _,
      fun h x hc => contentOr_complete hc _, fun hi => contentOr_incomplete hi _,
      fun h x hc => contentOr_complete hc _, fun hi => contentOr_incomplete hi _,
      fun h x hc => contentOr_complete hc _, fun hi => contentOr_incomplete hi _,
      fun h x hc => contentOr_complete hc _, fun hi => contentOr_incomplete hi _,
      fun h x hc => contentOr_complete hc _, fun hi => contentOr_incomplete hi _,
      fun a ha => ?_, fun hv => ?_, fun h hh hmax hseq => ?_, fun hnone => ?_⟩
    · obtain ⟨h, ha⟩ := hrestored a ha
      exact loadResult_restored ha
    · exact loadResult_void (hvoid hv)
    · have hregion : r ∈ tableRegions ∧ regionCode r = k + 1 := by
        simp only [List.mem_cons, Prod.mk.injEq, List.not_mem_nil, or_false] at hkr
        obtain ⟨rfl, rfl⟩ | ⟨rfl, rfl⟩ | ⟨rfl, rfl⟩ | ⟨rfl, rfl⟩ | ⟨rfl, rfl⟩ | ⟨rfl, rfl⟩ | ⟨rfl, rfl⟩ | ⟨rfl, rfl⟩ := hkr <;>
          decide
      exact incompleteTables_bit hregion.1 hregion.2
    · obtain ⟨h, ha⟩ := hrestored a ha
      have hmetering := loadMetering_restored ha (restartReading kind (setLevel v s)).tables.accounts
      obtain ⟨hbills, hcloses, hlock⟩ := loadBilling_restored ha
      refine ⟨loadPeriod_restored ha, congrArg Metering.meters hmetering, congrArg Metering.balance hmetering, hbills,
        hcloses, hlock, fun i => (getAt_tableOf _ _).trans (loadCounters_restored ha _ i), loadStations_restored ha,
        fun hlock => ?_, fun hlock => ?_⟩
      · have hbilling := loadBilling_locked ha hlock
        refine ⟨congrArg Billing.edition hbilling, fun x hx => ?_, fun i hi => ?_, fun hi => ?_⟩
        · exact (congrArg Billing.active hbilling).trans (by rw [hx]; rfl)
        · obtain ⟨h', hi⟩ := htariff i hi
          exact (congrArg Billing.staged hbilling).trans (by rw [heldStaged_complete hi])
        · exact (congrArg Billing.staged hbilling).trans (by rw [heldStaged_incomplete (hnoTariff hi)]; rfl)
      · have hbilling := loadBilling_unlocked ha hlock
        have htariffs := unlockedTariff (congrArg Billing.active hbilling) (congrArg Billing.edition hbilling)
        exact ⟨congrArg Billing.staged hbilling, htariffs.1, htariffs.2⟩
    · have ha := hvoid hv
      have hmetering := loadMetering_void ha (restartReading kind (setLevel v s)).tables.accounts
      have hbilling := loadBilling_void ha
      have htariffs := unlockedTariff (congrArg Billing.active hbilling) (congrArg Billing.edition hbilling)
      refine ⟨congrArg Metering.meters hmetering, congrArg Metering.balance hmetering, congrArg Billing.bills hbilling,
        congrArg Billing.closes hbilling, congrArg Billing.lock hbilling, congrArg Billing.staged hbilling,
        fun i => (getAt_tableOf _ _).trans (loadCounters_void ha _ i), loadStations_void ha, htariffs.1, htariffs.2,
        fun h hh hlast => ?_, fun hnone => loadPeriod_empty ha (latestHeader_none hnone)⟩
      obtain ⟨b, hlatest, hholds, hhighest⟩ := latestHeader_some hh
      have heq : b = h := (hlast b hholds).resolve_right (Nat.not_lt.2 (hhighest h hh))
      exact (loadPeriod_latest ha hlatest).trans (congrArg Header.period heq)
    · obtain ⟨b, hlatest, hholds, hhighest⟩ := latestHeader_some hh
      have hsequence : b.sequence = h.sequence := Nat.le_antisymm (hmax b hholds) (hhighest h hh)
      show loadSequence (findRegions g) s.free = _
      rw [loadSequence, hlatest, ← hsequence]
      exact if_pos (by omega)
    · show loadSequence (findRegions g) s.free = _
      rw [loadSequence, latestHeader_none hnone]
  refine ⟨fun v s hstatus hv => ?_, fun kind s => hloads kind s.supply.level s, fun s => rfl⟩
  have hmoves : supplyMoves v s = restartReading (restartKind s.supply.retention) (setLevel v s) := by
    rw [supplyMoves_eq, compareSupply_stopped hstatus]
    exact lowerPassages_above hstatus hv
  exact ⟨_, congrArg Host.Outcome.next hmoves, hloads _ v s⟩

end Sys2Proof.Machine

/-! PROOFS. The end of loading (O53). -/

namespace Sys2Proof.Machine

open Sys2Proof.Safety

/-! ## The gates (R131) -/

section

variable {s : State}

theorem placeWaiting_none (h : s.gateWaiting = []) : placeWaiting s = s := by
  rw [placeWaiting, h]

theorem placeWaiting_unassigned {t : Turnout} {rest : List Turnout} (hown : ownReach s = 0)
    (h : s.gateWaiting = t :: rest) : placeWaiting s = { s with gateWaiting := rest } := by
  rw [placeWaiting, h]
  exact gateSet_unassigned (by exact hown) _ _ _ _

theorem placeWaiting_assigned {t : Turnout} {rest : List Turnout} (hown : ownReach s ≠ 0)
    (h : s.gateWaiting = t :: rest) : placeWaiting s = openedGate t 0 false { s with gateWaiting := rest } := by
  rw [placeWaiting, h]
  dsimp only
  rw [gateSet_assigned (by exact hown), commandedGate_timed]
  rfl

/-- The enabled turnouts of an assigned part, whose gates are told to close at the end of loading. -/
def gatesToClose (s : State) : List Turnout :=
  if ownReach s = 0 then [] else (List.finRange 16).filter fun t => (getAt s.tables.turnouts t).enabled

theorem startGates_eq {gates : Vector GateRec 16}
    (hg : ∀ t, getAt gates t = if t ∈ (gatesToClose s).take (8 - s.comms.d.queue.length) then commandedGate 0 true t s
      else getAt s.gates t) :
    startGates s = { s with
      comms := { s.comms with d := { s.comms.d with
        queue := s.comms.d.queue ++ ((gatesToClose s).take (8 - s.comms.d.queue.length)).map fun t =>
          mkFrame ⟨ownReach s, t.val + 1⟩ ⟨ownReach s, 0⟩ 0x31 (be 2 0) false } }
      gates := gates
      gateWaiting := if ownReach s = 0 then s.gateWaiting else (gatesToClose s).drop (8 - s.comms.d.queue.length) } := by
  unfold startGates
  by_cases hown : ownReach s = 0
  · rw [gatesToClose, if_pos hown] at hg ⊢
    obtain rfl : gates = s.gates := table_ext fun t => by simpa using hg t
    rw [if_pos hown, if_pos hown, List.take_nil, List.map_nil, List.append_nil]
  · rw [gatesToClose, if_neg hown] at hg ⊢
    rw [if_neg hown, if_neg hown]
    have hnodup : ((List.finRange 16).filter fun t => (getAt s.tables.turnouts t).enabled).Nodup :=
      (List.nodup_finRange 16).filter _
    exact placeWhileRoom_assigned (s := { s with
      gateWaiting := (List.finRange 16).filter fun t => (getAt s.tables.turnouts t).enabled }) hnodup (Nat.le_refl _) hown rfl hg

end

/-! ## Flags that stand -/

/-- Every flag set before is set after. -/
def FlagsStand (c d : Comms) : Prop := ∀ k, flagSet c.flags k = true → flagSet d.flags k = true

theorem FlagsStand.trans {a b c : Comms} (h : FlagsStand a b) (h' : FlagsStand b c) : FlagsStand a c :=
  fun k hk => h' k (h k hk)

theorem flagsStand_of_flags {c d : Comms} (h : d.flags = c.flags) : FlagsStand c d := fun k hk => by rwa [h]

theorem sendAlert_flags (x : AlertContext) (k : Flag) (c : Comms) : (sendAlert x k c).flags = c.flags := by
  unfold sendAlert
  split
  · exact enqueueAt_flags _ _ _
  · rfl

theorem flagsStand_raiseDrop (x : AlertContext) (c : Comms) : FlagsStand c (raiseDrop x c) := by
  unfold raiseDrop
  split
  · exact fun _ hk => hk
  · exact fun k hk => by
      rw [sendAlert_flags]
      exact flagSet_addFlag_of _ _ _ hk

theorem flagsStand_placeIn (x : AlertContext) (p : Port) (f : Frame) (c : Comms) : FlagsStand c (placeIn x p f c) := by
  have henqueue := flagsStand_of_flags (enqueueAt_flags p f c)
  unfold placeIn
  split
  · exact henqueue.trans (flagsStand_raiseDrop _ _)
  · exact henqueue

/-- A flag raised stands, with those that stood. -/
theorem flagsStand_raiseIn (x : AlertContext) (k : Flag) (c : Comms) :
    FlagsStand c (raiseIn x k c) ∧ flagSet (raiseIn x k c).flags k = true := by
  have hadded : FlagsStand c { c with flags := addFlag c.flags k } := fun j hj => flagSet_addFlag_of _ _ _ hj
  unfold raiseIn
  split
  next hset => exact ⟨fun _ hj => hj, hset⟩
  · dsimp only
    split
    · have hplaced := flagsStand_placeIn x .u (alertFrame x (addFlag c.flags k) k) { c with flags := addFlag c.flags k }
      exact ⟨hadded.trans hplaced, hplaced k (flagSet_addFlag_self _ _)⟩
    · exact ⟨hadded, flagSet_addFlag_self _ _⟩

theorem flagsStand_beginScan (s : State) : FlagsStand s.comms (beginScan s).comms := by
  cases hlist : scanListOf s with
  | nil =>
    rw [beginScan_empty hlist]
    exact fun _ hk => hk
  | cons x rest =>
    rw [beginScan_polls hlist]
    exact flagsStand_placeIn _ _ _ _

theorem beginScan_interval (s : State) : (beginScan s).scan.interval = s.scan.interval := by
  cases hlist : scanListOf s with
  | nil =>
    rw [beginScan_empty hlist]
    rfl
  | cons x rest =>
    rw [beginScan_polls hlist]
    rfl

/-! ## The management unit (R53, R188) -/

section

variable {l : Loading} {s : State}

/-- The supply compared anew at the end of loading. -/
theorem fallCheck_ended (hloading : s.loading = none) (hstatus : s.supply.status = .normal) :
    fallCheck s = if s.supply.level < [10800, 11200, 11600, 12000].getD s.tables.reach.warnChoice 12000
      then requestSnapshot (raise .supplyLow (setStatus .low s)) else s := by
  unfold fallCheck
  rw [passToLow_running hloading, warnNow, warnLevel_eq]
  exact if_congr (and_iff_right hstatus) rfl rfl

theorem endLoadingMgmt_eq (l : Loading) (s : State) :
    let warn := [10800, 11200, 11600, 12000].getD s.tables.reach.warnChoice 12000
    let ready := { s with
      mgmt := { restart := l.record }
      comms := { s.comms with flags := 0 }
      supply := { s.supply with status := .normal }
      loading := none }
    let warned :=
      if s.supply.level < warn then
        requestSnapshot (raise .supplyLow { ready with supply := { s.supply with status := .low } })
      else ready
    let noted := if l.storeFault = true then raise .storeFault warned else warned
    endLoadingMgmt l s = raise .restarted noted := by
  intro warn ready warned noted
  have hwarned : fallCheck ready = warned := fallCheck_ended rfl rfl
  unfold endLoadingMgmt
  dsimp only
  rw [hwarned]

/-- What the management unit leaves alone at the end of loading. -/
theorem endLoadingMgmt_keeps (l : Loading) (s : State) :
    Keeps [.comms, .supply, .store, .free, .mgmt, .loading] s (endLoadingMgmt l s) := by
  have hready : Keeps [.comms, .supply, .store, .free, .mgmt, .loading] s
      { s with
        mgmt := { restart := l.record }
        comms := { s.comms with flags := 0 }
        supply := { s.supply with status := .normal }
        loading := none } :=
    ⟨rfl, fun p hp => by cases p <;> first | rfl | simp at hp⟩
  unfold endLoadingMgmt
  refine Keeps.trans ?_ ((raise_within _ _).toKeeps.mono (by decide))
  refine Keeps.trans (hready.trans ((fallCheck_within _).toKeeps.mono (by decide))) ?_
  exact keeps_ite ((raise_within _ _).toKeeps.mono (by decide)) (Keeps.refl _ _)

end

/-- The comparison at the end of loading: the status, with SUPPLY LOW where it is LOW. -/
theorem fallCheck_outcome {s : State} (hloading : s.loading = none) (hstatus : s.supply.status = .normal) :
    (fallCheck s).loading = none ∧ (fallCheck s).mgmt = s.mgmt ∧ (fallCheck s).supply.level = s.supply.level
      ∧ ((fallCheck s).supply.status =
        if s.supply.level < [10800, 11200, 11600, 12000].getD s.tables.reach.warnChoice 12000 then .low else .normal)
      ∧ ((fallCheck s).supply.status = .low → flagSet (fallCheck s).comms.flags .supplyLow = true) := by
  rw [fallCheck_ended hloading hstatus]
  split
  · have hwithin := requestSnapshot_within (raise .supplyLow (setStatus .low s))
    have hcomms : (requestSnapshot (raise .supplyLow (setStatus .low s))).comms
        = (raise .supplyLow (setStatus .low s)).comms := hwithin.keeps .comms (by decide)
    have hsupply : (requestSnapshot (raise .supplyLow (setStatus .low s))).supply = { s.supply with status := .low } :=
      hwithin.keeps .supply (by decide)
    have hnone : (requestSnapshot (raise .supplyLow (setStatus .low s))).loading = s.loading :=
      hwithin.keeps .loading (by decide)
    refine ⟨hnone.trans hloading, hwithin.keeps .mgmt (by decide), ?_, ?_, fun _ => ?_⟩
    · rw [hsupply]
    · rw [hsupply]
    · rw [hcomms]
      exact (flagsStand_raiseIn _ _ _).2
  · exact ⟨hloading, rfl, rfl, hstatus, fun hlow => nomatch hstatus.symm.trans hlow⟩

/-- What the management unit leaves at the end of loading. -/
theorem endLoadingMgmt_outcome (l : Loading) (s : State) :
    let z := endLoadingMgmt l s
    z.loading = none ∧ z.mgmt = { restart := l.record } ∧ z.supply.level = s.supply.level
      ∧ (z.supply.status =
        if s.supply.level < [10800, 11200, 11600, 12000].getD s.tables.reach.warnChoice 12000 then .low else .normal)
      ∧ flagSet z.comms.flags .restarted = true ∧ (l.storeFault = true → flagSet z.comms.flags .storeFault = true)
      ∧ (z.supply.status = .low → flagSet z.comms.flags .supplyLow = true) := by
  intro z
  let compared := fallCheck { s with
    mgmt := { restart := l.record }
    comms := { s.comms with flags := 0 }
    supply := { s.supply with status := .normal }
    loading := none }
  obtain ⟨hloading, hmgmt, hlevel, hstatus, hlow⟩ := fallCheck_outcome (s := { s with
    mgmt := { restart := l.record }
    comms := { s.comms with flags := 0 }
    supply := { s.supply with status := .normal }
    loading := none }) rfl rfl
  have hz : z = raise .restarted (if l.storeFault then raise .storeFault compared else compared) := rfl
  have hraised : ∀ k x, flagSet (raise k x).comms.flags k = true := fun k x => (flagsStand_raiseIn _ _ _).2
  have hstand : ∀ k x, FlagsStand x.comms (raise k x).comms := fun k x => (flagsStand_raiseIn _ _ _).1
  rw [hz]
  cases hfault : l.storeFault with
  | false => exact ⟨hloading, hmgmt, hlevel, hstatus, hraised _ _, nofun, fun h => hstand _ _ _ (hlow h)⟩
  | true =>
    exact ⟨hloading, hmgmt, hlevel, hstatus, hraised _ _, fun _ => hstand _ _ _ (hraised _ _),
      fun h => hstand _ _ _ (hstand _ _ _ (hlow h))⟩

theorem flagsStand_startScan (s : State) : FlagsStand s.comms (startScan s).comms :=
  flagsStand_beginScan { s with scan := { s.scan with interval := some s.tables.scan.interval } }

theorem flagsStand_startGates (s : State) : FlagsStand s.comms (startGates s).comms := by
  rw [startGates_eq (gates := tableOf fun t =>
    if t ∈ (gatesToClose s).take (8 - s.comms.d.queue.length) then commandedGate 0 true t s else getAt s.gates t)
    fun t => getAt_tableOf _ _]
  exact fun _ hk => hk

theorem exec_loadingComplete {l : Loading} {s : State} (h : s.loading = some l) :
    exec .loadingComplete s = .next (endLoading l s) := by
  show Host.Outcome.next (finishLoading s) = _
  rw [finishLoading, h]

/-- Settles O53: the end of loading in its order, and the waiting GATE SETs. -/
theorem loadingEnds : Obligations.LoadingEnds := by
  refine ⟨fun l s hloading => ?_, fun l s gates hloading => ?_, fun s => ⟨placeWaiting_none, fun t rest hwaiting =>
    ⟨fun hown => placeWaiting_unassigned hown hwaiting, fun hown => placeWaiting_assigned hown hwaiting⟩⟩⟩
  · obtain ⟨hnone, hmgmt, hlevel, hstatus, hrestarted, hfault, hlow⟩ := endLoadingMgmt_outcome l s
    have hwithin : Within [.comms, .gates, .gateWaiting, .scan] (endLoadingMgmt l s)
        (startScan (startGates (endLoadingMgmt l s))) :=
      ((startGates_within _).mono (by decide)).trans ((startScan_within _).mono (by decide))
    have hsupply : (startScan (startGates (endLoadingMgmt l s))).supply = (endLoadingMgmt l s).supply :=
      hwithin.keeps .supply (by decide)
    have hflags : FlagsStand (endLoadingMgmt l s).comms (startScan (startGates (endLoadingMgmt l s))).comms :=
      (flagsStand_startGates _).trans (flagsStand_startScan _)
    have hkeeps := endLoading_keeps l s
    have htables : (startGates (endLoadingMgmt l s)).tables = s.tables :=
      Eq.trans ((startGates_within _).keeps .tables (by decide)) ((endLoadingMgmt_keeps l s).keeps .tables (by decide))
    refine ⟨endLoading l s, exec_loadingComplete hloading, Eq.trans (hwithin.keeps .loading (by decide)) hnone,
      Eq.trans (hwithin.keeps .mgmt (by decide)) hmgmt, rfl, rfl, ?_, ?_, hflags _ hrestarted,
      fun h => hflags _ (hfault h), fun h => hflags _ (hlow ?_), ?_, hkeeps.keeps .tables (by decide),
      hkeeps.keeps .metering (by decide), hkeeps.keeps .clock (by decide), hkeeps.keeps .orders (by decide),
      hkeeps.keeps .billing (by decide)⟩
    · exact (congrArg Supply.level hsupply).trans hlevel
    · exact (congrArg Supply.status hsupply).trans hstatus
    · exact (congrArg Supply.status hsupply).symm.trans h
    · show (beginScan _).scan.interval = _
      rw [beginScan_interval]
      exact congrArg (fun x : Tables => some x.scan.interval) htables
  · intro n warn ready warned noted z enabled places hgates frames scanned
    have hz : endLoadingMgmt l s = z := endLoadingMgmt_eq l s
    have hkeeps := endLoadingMgmt_keeps l s
    rw [hz] at hkeeps
    have htables : z.tables = s.tables := hkeeps.keeps .tables (by decide)
    have hclock : z.clock = s.clock := hkeeps.keeps .clock (by decide)
    have hrecords : z.gates = s.gates := hkeeps.keeps .gates (by decide)
    have hwaiting : z.gateWaiting = s.gateWaiting := hkeeps.keeps .gateWaiting (by decide)
    have hscan : z.scan = s.scan := hkeeps.keeps .scan (by decide)
    have hown : ownReach z = ownReach s := by rw [ownReach, htables]; rfl
    have henabled : gatesToClose z = enabled := by rw [gatesToClose, hown, htables]
    have hstarted := startGates_eq (s := z) (gates := gates) fun t => by
      rw [hgates t, henabled, commandedGate_timed, hrecords, hclock, htables]
    rw [exec_loadingComplete hloading, endLoading, hz, startScan, hstarted]
    refine congrArg (fun x => Host.Outcome.next (openRelay (beginScan x))) ?_
    dsimp only
    rw [henabled, hown, hwaiting, hscan, htables]

end Sys2Proof.Machine

/-! PROOFS. The reset state (O54). -/

namespace Sys2Proof.Machine

open Sys2Proof.Safety

/-! ## The first power-on -/

/-- A part whose store was never written, loading after a power-on. -/
def firstLoading (r : RestartRecord) : State where
  pending := []
  comms := {}
  lastTaken := none
  clock := {}
  tables := {}
  orders := {}
  carriage := {}
  gates := .replicate 16 {}
  gateWaiting := []
  scan := {}
  metering := {}
  billing := {}
  mgmt := { restart := r }
  store := {}
  supply := { level := 12000, status := .normal, retention := false, relayClosed := true }
  loading := some ⟨⟨.powerOn, .void, 0xFF⟩, true⟩
  free := 0

theorem loadTables_empty : loadTables (findRegions {}) = {} := rfl

theorem loadMetering_empty : loadMetering (findRegions {}) ({} : Tables).accounts = {} := by
  have hcounters : tableOf (loadCounters (findRegions {}) ({} : Tables).accounts) = .replicate 64 {} :=
    table_ext fun i => by
      rw [getAt_tableOf, getAt_replicate]
      exact if_pos (congrArg AccountEntry.number (getAt_replicate _ i))
  rw [loadMetering_void rfl, hcounters]

theorem restartReading_empty {s : State} (hstore : s.store.regions = {}) (hpending : s.pending = []) (hfree : s.free = 0)
    (hlevel : s.supply.level = 12000) (hretention : s.supply.retention = false) :
    restartReading .powerOn s = firstLoading s.mgmt.restart := by
  unfold restartReading
  rw [hstore, hfree]
  dsimp only
  rw [loadTables_empty, loadMetering_empty]
  unfold restartWith
  dsimp only
  rw [hpending, hstore, hlevel, hretention]
  rfl

/-- STORE FAULT is raised by an unassigned part whose flags are clear. -/
theorem raise_storeFault_first : raiseIn ⟨⟨250, 0⟩, 0xFFFF, {}⟩ .storeFault {}
    = { u := { queue := [mkFrame ⟨0, 0⟩ ⟨250, 0⟩ 0x7E (alertBody 0x2000 13 {}) false] }, flags := 0x2000 } := rfl

theorem raise_restarted_first : raiseIn ⟨⟨250, 0⟩, 0xFFFF, {}⟩ .restarted
    { u := { queue := [mkFrame ⟨0, 0⟩ ⟨250, 0⟩ 0x7E (alertBody 0x2000 13 {}) false] }, flags := 0x2000 }
    = State.reset.comms := rfl

theorem raise_in {k : Flag} {s : State} {x : AlertContext} {c d : Comms} (hcontext : alertContext s = x) (hcomms : s.comms = c)
    (hraised : raiseIn x k c = d) : raise k s = { s with comms := d } := by
  rw [raise, hcontext, hcomms, hraised]

theorem endLoadingMgmt_first (r : RestartRecord) :
    endLoadingMgmt ⟨⟨.powerOn, .void, 0xFF⟩, true⟩ (firstLoading r) = { State.reset with
      scan := {}
      supply := { level := 12000, status := .normal, retention := false, relayClosed := true } } := by
  have hcompared : fallCheck { firstLoading r with
      mgmt := { restart := ⟨.powerOn, .void, 0xFF⟩ }
      comms := {}
      supply := { level := 12000, status := .normal, retention := false, relayClosed := true }
      loading := none } = { firstLoading r with
      mgmt := { restart := ⟨.powerOn, .void, 0xFF⟩ }
      comms := {}
      supply := { level := 12000, status := .normal, retention := false, relayClosed := true }
      loading := none } := if_neg fun h => absurd (show 12000 < 11200 from h.2) (by decide)
  have hraised : endLoadingMgmt ⟨⟨.powerOn, .void, 0xFF⟩, true⟩ (firstLoading r)
      = raise .restarted (raise .storeFault (fallCheck { firstLoading r with
        mgmt := { restart := ⟨.powerOn, .void, 0xFF⟩ }
        comms := {}
        supply := { level := 12000, status := .normal, retention := false, relayClosed := true }
        loading := none })) := rfl
  rw [hraised, hcompared, raise_in (k := .storeFault) (x := ⟨⟨250, 0⟩, 0xFFFF, {}⟩) (by rfl) (by rfl)
    raise_storeFault_first, raise_in (x := ⟨⟨250, 0⟩, 0xFFFF, {}⟩) (by rfl) (by rfl) raise_restarted_first]
  rfl

theorem endLoading_first (r : RestartRecord) :
    endLoading ⟨⟨.powerOn, .void, 0xFF⟩, true⟩ (firstLoading r) = State.reset := by
  have hstations : relistAll 0 [] [] (.replicate 18 {}) = .replicate 18 {} := table_ext fun x => by
    rw [relistAll, getAt_tableOf]
    rfl
  rw [endLoading, endLoadingMgmt_first, startGates, if_pos (by rfl), startScan, beginScan_empty (by rfl), relisted]
  show openRelay { State.reset with
    scan := { interval := some 60, stations := relistAll 0 [] [] (.replicate 18 {}) }
    supply := { level := 12000, status := .normal, retention := false, relayClosed := true } } = _
  rw [hstations]
  rfl

/-- The supply rises to 12 V at a part without retained memory and with an empty store. -/
theorem exec_supplyRestart_first {s : State} (hstatus : s.supply.status = .backup) (hretention : s.supply.retention = false)
    (hstore : s.store.regions = {}) (hpending : s.pending = []) (hfree : s.free = 0) :
    exec (.supplyRestart 12000) s = .next (firstLoading s.mgmt.restart) := by
  show Host.Outcome.next (supplyMoves 12000 s) = _
  rw [supplyMoves_eq, compareSupply_stopped hstatus, lowerPassages_above (s := setLevel 12000 s) hstatus (by show 10200 < 12000; decide)]
  have hkind : restartKind (setLevel 12000 s).supply.retention = .powerOn := by
    show restartKind s.supply.retention = .powerOn
    rw [hretention]
    rfl
  rw [hkind, restartReading_empty (s := setLevel 12000 s) hstore hpending hfree rfl hretention]
  rfl

/-! ## The laws -/

theorem reset_queueLaw : QueueLaw State.reset := by
  intro p
  cases p with
  | u => exact ⟨⟨by decide, by simp [unitAt, State.reset, portOf, mkFrame]⟩, by decide⟩
  | d => exact ⟨⟨by decide, .nil⟩, by decide⟩

theorem reset_meterLaw : MeterLaw State.reset :=
  meterLaw_iff.2 ⟨metersOk_zero, (fun _ h => nomatch h), fun _ h => nomatch h⟩

theorem reset_turnoutLaw : TurnoutLaw State.reset := by
  have hgate : ∀ t, getAt State.reset.gates t = {} := getAt_replicate _
  refine ⟨fun t h => absurd (by rw [hgate]) h, fun t _ => by rw [hgate], fun _ => rfl⟩

/-- Settles O54: law by law, and by the states before and after loading. -/
theorem resetIsTheFirstPowerOn : Obligations.ResetIsTheFirstPowerOn := by
  refine ⟨⟨reset_queueLaw, ⟨by decide, by decide⟩, reset_meterLaw, ⟨fun _ => rfl, by decide, by decide⟩,
    ⟨by decide, .nil, nofun⟩, carriageLaw_of_nil rfl, reset_turnoutLaw⟩, fun s hstatus hretention hstore hpending hfree => ?_⟩
  exact ⟨firstLoading s.mgmt.restart, exec_supplyRestart_first hstatus hretention hstore hpending hfree,
    (exec_loadingComplete rfl).trans (congrArg _ (endLoading_first _))⟩

end Sys2Proof.Machine
